-- ==== Sys2Proof/Word.lean ====
section
/-! DEFINITION. The word types of the IR pulse-sequence encoder (spec/00_scope.md R9, R10). -/

namespace Sys2Proof

/-- A 32-bit port word: a command word or a response datum (R9, R90, R100). -/
abbrev Word := BitVec 32

/-- A frame byte (R10). -/
abbrev Byte := BitVec 8

/-- A duration in microseconds, `u32` (R9, R191). That it is never 0 is a fact about the configuration and the queue, not
about the type. -/
abbrev Dur := BitVec 32

end Sys2Proof
end

