-- ==== Sys2Proof/Syntax.lean ====
section
/-! DEFINITION. The value types of spec/00_scope.md R15 and the command set: one constructor of `Instr` per row of
spec/opcode_table.json. -/

namespace Sys2Proof

/-- The modes, in the order of their codes (R15, R94). -/
inductive Mode where
  | off | heat | cool | dry | fanOnly | auto | heatCool
  deriving DecidableEq, Repr

/-- The fan speeds, in the order of their codes (R15, R95). -/
inductive FanSpeed where
  | auto | low | medium | high | quiet
  deriving DecidableEq, Repr

/-- The swing settings, in the order of their codes (R15, R96). -/
inductive SwingSetting where
  | off | vertical | horizontal | both
  deriving DecidableEq, Repr

/-- The fifteen brand encoders, in the order of their codes (R2, R97). -/
inductive Brand where
  | lg | daikin | mitsubishi | toshiba | midea | gree | fujitsu | tcl | ballu | coolix | hitachi | whirlpool
  | whynter | yashima | nec
  deriving DecidableEq, Repr

/-- What a façade can be bound to: a brand together with an effective variant (R22, R98). Toshiba has three variants, Gree
seven, every other brand one. -/
inductive Target where
  | lg | daikin | mitsubishi | toshibaGeneric | toshibaRas2819t | toshibaRacPt1411hwru | midea
  | gree (model : Fin 7)
  | fujitsu | tcl | ballu | coolix | hitachi | whirlpool | whynter | yashima | nec
  deriving DecidableEq, Repr

/-- The four operands of GENERATE as they stand in the command word (R92). Every value of every field is admitted: an
unrecognised code is an ordinary operand (R105). -/
structure ClimateCommand where
  mode  : BitVec 4
  fan   : BitVec 4
  swing : BitVec 4
  temp  : BitVec 16
  deriving DecidableEq, Repr

/-- The instructions: the rows of spec/opcode_table.json in the table's order. Reserved fields of a command word are
ignored (R103) and so are no operands. -/
inductive Instr where
  | resolve (brand : BitVec 8) (variant : BitVec 4)
  | generateLg (cmd : ClimateCommand)
  | generateWhynter (cmd : ClimateCommand)
  | generateYashima (cmd : ClimateCommand)
  | generateBallu (cmd : ClimateCommand)
  | generateTcl (cmd : ClimateCommand)
  | generateMitsubishi (cmd : ClimateCommand)
  | generateMidea (cmd : ClimateCommand)
  | generateGree (cmd : ClimateCommand)
  | generateFujitsu (cmd : ClimateCommand)
  | generateNec (cmd : ClimateCommand)
  | generateCoolix (cmd : ClimateCommand)
  | generateWhirlpool (cmd : ClimateCommand)
  | generateToshibaGeneric (cmd : ClimateCommand)
  | generateToshibaRas2819t (cmd : ClimateCommand)
  | generateToshibaRacPt1411hwru (cmd : ClimateCommand)
  | generateDaikin (cmd : ClimateCommand)
  | generateHitachi (cmd : ClimateCommand)
  | generateUnbound (cmd : ClimateCommand)
  | queryTemperatureMin
  | queryTemperatureMax
  | queryTemperatureStep
  | querySupportedHvacModes
  | querySupportedFanModes
  | querySupportedSwingModes
  | queryBrandList
  | queryReservedSelector
  | queryStatus
  | queryBinding
  | queryPsFlags
  | queryPrevTemp
  | queryPrevMode
  | queryModeTrans
  | querySeq
  | queryErrInfo
  | release
  | reservedOp0
  | reservedOp5
  | reservedOp6
  | reservedOp7
  | reservedOp8
  | reservedOp9
  | reservedOpA
  | reservedOpB
  | reservedOpC
  | reservedOpD
  | reservedOpE
  | reservedOpF
  deriving DecidableEq, Repr

end Sys2Proof
end

