-- ==== Sys2Proof/WellFormed.lean ====
section
/-! DEFINITION. Well-formedness of an instruction. Every operand of every width is admitted (R105, R106), so the one thing
that can be wrong with an instruction is the binding it stands under: a GENERATE row is the reading of a GENERATE word under
one binding of the instance (spec/30_encoding.md R107 and the state entries of spec/opcode_table.json). -/

namespace Sys2Proof

/-- The bindings under which a GENERATE row stands (R107): `b` is the target bound, or `none` while BOUND = 0. All other
instructions stand under every binding. -/
def Instr.wellFormed (b : Option Target) : Instr → Bool
  | .generateLg _ => decide (b = some .lg)
  | .generateWhynter _ => decide (b = some .whynter)
  | .generateYashima _ => decide (b = some .yashima)
  | .generateBallu _ => decide (b = some .ballu)
  | .generateTcl _ => decide (b = some .tcl)
  | .generateMitsubishi _ => decide (b = some .mitsubishi)
  | .generateMidea _ => decide (b = some .midea)
  | .generateGree _ =>
    match b with
    | some (.gree _) => true
    | _ => false
  | .generateFujitsu _ => decide (b = some .fujitsu)
  | .generateNec _ => decide (b = some .nec)
  | .generateCoolix _ => decide (b = some .coolix)
  | .generateWhirlpool _ => decide (b = some .whirlpool)
  | .generateToshibaGeneric _ => decide (b = some .toshibaGeneric)
  | .generateToshibaRas2819t _ => decide (b = some .toshibaRas2819t)
  | .generateToshibaRacPt1411hwru _ => decide (b = some .toshibaRacPt1411hwru)
  | .generateDaikin _ => decide (b = some .daikin)
  | .generateHitachi _ => decide (b = some .hitachi)
  | .generateUnbound _ => decide (b = none)
  | .resolve _ _ => true
  | .queryTemperatureMin => true
  | .queryTemperatureMax => true
  | .queryTemperatureStep => true
  | .querySupportedHvacModes => true
  | .querySupportedFanModes => true
  | .querySupportedSwingModes => true
  | .queryBrandList => true
  | .queryReservedSelector => true
  | .queryStatus => true
  | .queryBinding => true
  | .queryPsFlags => true
  | .queryPrevTemp => true
  | .queryPrevMode => true
  | .queryModeTrans => true
  | .querySeq => true
  | .queryErrInfo => true
  | .release => true
  | .reservedOp0 => true
  | .reservedOp5 => true
  | .reservedOp6 => true
  | .reservedOp7 => true
  | .reservedOp8 => true
  | .reservedOp9 => true
  | .reservedOpA => true
  | .reservedOpB => true
  | .reservedOpC => true
  | .reservedOpD => true
  | .reservedOpE => true
  | .reservedOpF => true

end Sys2Proof
end

