-- ==== Sys2Proof/Decode.lean ====
section
/-! DEFINITION. The decoder and the encoder of the command word (spec/30_encoding.md R90 to R93, R99, R102 to R107, R113,
R114). Decoding is total: every 32-bit word is an operation or a reserved operation (R114), so there is nothing to reject but
a string of bits that is no 32-bit word. The decoder of GENERATE also reads the binding (R107). -/

namespace Sys2Proof

/-! ### The fields of a command word -/

/-- `cw[31:28]`, the operation code (R90). -/
def opField (cw : Word) : BitVec 4 := cw.extractLsb' 28 4
/-- `cw[27:20]` of RESOLVE (R91). -/
def brandField (cw : Word) : BitVec 8 := cw.extractLsb' 20 8
/-- `cw[19:16]` of RESOLVE (R91). -/
def variantField (cw : Word) : BitVec 4 := cw.extractLsb' 16 4
/-- `cw[27:24]` of GENERATE (R92). -/
def modeField (cw : Word) : BitVec 4 := cw.extractLsb' 24 4
/-- `cw[23:20]` of GENERATE (R92). -/
def fanField (cw : Word) : BitVec 4 := cw.extractLsb' 20 4
/-- `cw[19:16]` of GENERATE (R92). -/
def swingField (cw : Word) : BitVec 4 := cw.extractLsb' 16 4
/-- `cw[15:0]` of GENERATE (R92, R101). -/
def tempField (cw : Word) : BitVec 16 := cw.extractLsb' 0 16
/-- `cw[27:24]` of QUERY (R93). -/
def selField (cw : Word) : BitVec 4 := cw.extractLsb' 24 4

/-- The four operand fields of a GENERATE word (R92). -/
def climateField (cw : Word) : ClimateCommand :=
  { mode := modeField cw, fan := fanField cw, swing := swingField cw, temp := tempField cw }

/-! ### Decoding -/

/-- The GENERATE row a bound instance executes (R107; the BRAND and VARIANT entries of spec/opcode_table.json). -/
def Target.generate (t : Target) (c : ClimateCommand) : Instr :=
  match t with
  | .lg => .generateLg c
  | .daikin => .generateDaikin c
  | .mitsubishi => .generateMitsubishi c
  | .toshibaGeneric => .generateToshibaGeneric c
  | .toshibaRas2819t => .generateToshibaRas2819t c
  | .toshibaRacPt1411hwru => .generateToshibaRacPt1411hwru c
  | .midea => .generateMidea c
  | .gree _ => .generateGree c
  | .fujitsu => .generateFujitsu c
  | .tcl => .generateTcl c
  | .ballu => .generateBallu c
  | .coolix => .generateCoolix c
  | .hitachi => .generateHitachi c
  | .whirlpool => .generateWhirlpool c
  | .whynter => .generateWhynter c
  | .yashima => .generateYashima c
  | .nec => .generateNec c

/-- GENERATE under a binding (R107): the bound brand's row, or the unbound row while BOUND = 0 (R146). -/
def decodeGenerate (b : Option Target) (c : ClimateCommand) : Instr :=
  match b with
  | none => .generateUnbound c
  | some t => t.generate c

/-- QUERY by selector (spec/10_state.md R37, R93, R104). -/
def decodeQuery (sel : BitVec 4) : Instr :=
  match sel.toNat with
  | 0 => .queryTemperatureMin
  | 1 => .queryTemperatureMax
  | 2 => .queryTemperatureStep
  | 3 => .querySupportedHvacModes
  | 4 => .querySupportedFanModes
  | 5 => .querySupportedSwingModes
  | 6 => .queryBrandList
  | 7 => .queryReservedSelector
  | 8 => .queryStatus
  | 9 => .queryBinding
  | 10 => .queryPsFlags
  | 11 => .queryPrevTemp
  | 12 => .queryPrevMode
  | 13 => .queryModeTrans
  | 14 => .querySeq
  | _ => .queryErrInfo

/-- The instruction that the word `cw` is under the binding `b` (R90, R107, R114). -/
def decode (b : Option Target) (cw : Word) : Instr :=
  match (opField cw).toNat with
  | 0 => .reservedOp0
  | 1 => .resolve (brandField cw) (variantField cw)
  | 2 => decodeGenerate b (climateField cw)
  | 3 => decodeQuery (selField cw)
  | 4 => .release
  | 5 => .reservedOp5
  | 6 => .reservedOp6
  | 7 => .reservedOp7
  | 8 => .reservedOp8
  | 9 => .reservedOp9
  | 10 => .reservedOpA
  | 11 => .reservedOpB
  | 12 => .reservedOpC
  | 13 => .reservedOpD
  | 14 => .reservedOpE
  | _ => .reservedOpF

/-- The instruction the decoder reads from `nbits` bits `w` right after reset, when nothing is bound (R36): the bits above
`nbits` are 0. More than 32 bits are no command word. A GENERATE word is the unbound row here, since it is the binding that
tells the eighteen GENERATE rows apart (R107; log 14). -/
def decodeTableWord (nbits w : Nat) : Option Instr :=
  if nbits ≤ 32 then some (decode none (BitVec.ofNat 32 (w % 2 ^ nbits))) else none

/-! ### Encoding -/

/-- RESOLVE (R91, R113). -/
def encodeResolve (brand : BitVec 8) (variant : BitVec 4) : Word :=
  0x10000000#32 ||| (brand.setWidth 32 <<< 20) ||| (variant.setWidth 32 <<< 16)

/-- GENERATE (R92, R113). -/
def encodeGenerate (c : ClimateCommand) : Word :=
  0x20000000#32 ||| (c.mode.setWidth 32 <<< 24) ||| (c.fan.setWidth 32 <<< 20) ||| (c.swing.setWidth 32 <<< 16)
    ||| c.temp.setWidth 32

/-- QUERY (R93, R113). -/
def encodeQuery (sel : BitVec 4) : Word := 0x30000000#32 ||| (sel.setWidth 32 <<< 24)

/-- The command word of an instruction, reserved fields written 0 as R103 asks of a caller (R113). -/
def encode : Instr → Word
  | .resolve b v => encodeResolve b v
  | .generateLg c => encodeGenerate c
  | .generateWhynter c => encodeGenerate c
  | .generateYashima c => encodeGenerate c
  | .generateBallu c => encodeGenerate c
  | .generateTcl c => encodeGenerate c
  | .generateMitsubishi c => encodeGenerate c
  | .generateMidea c => encodeGenerate c
  | .generateGree c => encodeGenerate c
  | .generateFujitsu c => encodeGenerate c
  | .generateNec c => encodeGenerate c
  | .generateCoolix c => encodeGenerate c
  | .generateWhirlpool c => encodeGenerate c
  | .generateToshibaGeneric c => encodeGenerate c
  | .generateToshibaRas2819t c => encodeGenerate c
  | .generateToshibaRacPt1411hwru c => encodeGenerate c
  | .generateDaikin c => encodeGenerate c
  | .generateHitachi c => encodeGenerate c
  | .generateUnbound c => encodeGenerate c
  | .queryTemperatureMin => encodeQuery 0
  | .queryTemperatureMax => encodeQuery 1
  | .queryTemperatureStep => encodeQuery 2
  | .querySupportedHvacModes => encodeQuery 3
  | .querySupportedFanModes => encodeQuery 4
  | .querySupportedSwingModes => encodeQuery 5
  | .queryBrandList => encodeQuery 6
  | .queryReservedSelector => encodeQuery 7
  | .queryStatus => encodeQuery 8
  | .queryBinding => encodeQuery 9
  | .queryPsFlags => encodeQuery 10
  | .queryPrevTemp => encodeQuery 11
  | .queryPrevMode => encodeQuery 12
  | .queryModeTrans => encodeQuery 13
  | .querySeq => encodeQuery 14
  | .queryErrInfo => encodeQuery 15
  | .release => 0x40000000
  | .reservedOp0 => 0x00000000
  | .reservedOp5 => 0x50000000
  | .reservedOp6 => 0x60000000
  | .reservedOp7 => 0x70000000
  | .reservedOp8 => 0x80000000
  | .reservedOp9 => 0x90000000
  | .reservedOpA => 0xA0000000
  | .reservedOpB => 0xB0000000
  | .reservedOpC => 0xC0000000
  | .reservedOpD => 0xD0000000
  | .reservedOpE => 0xE0000000
  | .reservedOpF => 0xF0000000

end Sys2Proof
end

