-- ==== Sys2Proof/Config.lean ====
section
/-! DEFINITION. The configuration space of the block (spec/20_memory.md R62): the Brand Descriptor (spec/00_scope.md R8), the
parameters of each brand that the spec names OPEN (spec/92_eei_decisions.md Table 2), and the whole `Configuration`. These are
types only. What a configuration must satisfy is Sys2Proof/Config/Rules.lean; the one configuration the machine runs with,
of which nothing else is known, is Sys2Proof/Config/Chosen.lean. The configuration is no state (R18), so it may hold
functions. -/

namespace Sys2Proof

/-! ### What a builder is given and what it makes -/

/-- `NormCmd`, the command after normalisation (R16). `temp` is the integer `T` in half-degrees Celsius. -/
structure NormCmd where
  mode  : Mode
  temp  : Int
  fan   : FanSpeed
  swing : SwingSetting
  deriving DecidableEq, Repr

/-- The values `PS.previous_temperature` (16 bits, half-degrees) and `PS.previous_mode` (spec/10_state.md R23). -/
structure Previous where
  temperature : BitVec 16
  mode        : Mode
  deriving DecidableEq, Repr

/-- `ps_view(PS, VARIANT)`, what a builder sees of the state (spec/40_facade_ops.md R154). `previous` is `none` while
`prev_valid = 0`. -/
structure PsView where
  assumedPowerOn     : Bool
  assumedSwingOn     : Bool
  previous           : Option Previous
  modeTransitionBits : BitVec 32
  modelVariant       : BitVec 4
  deriving DecidableEq, Repr

/-- The fields of the ProtocolState, as the members of `b.uses` (R8, spec/10_state.md R23, R32). -/
inductive PsField where
  | assumedPowerOn | assumedSwingOn | previousTemperature | previousMode | modeTransitionBits | modelVariant
  deriving DecidableEq, Repr

/-- A frame (R15, spec/30_encoding.md R110): a word of `bits` bits held in a 4-byte container (spec/90_conflicts.md C3), or a
byte array. -/
inductive Frame where
  | word (bits : Nat) (w : Word)
  | bytes (bs : List Byte)
  deriving DecidableEq, Repr

/-- The trailer of a timing profile and the tail of a segment (spec/41_pulse_primitives.md R192). -/
inductive Trailer where
  | none
  | mark (m : Dur)
  | markGap (m g : Dur)
  deriving DecidableEq, Repr

/-- The unit the serializer emits (R193). -/
structure Segment where
  hdr  : Option (Dur × Dur)
  bits : List Bool
  tail : Trailer
  deriving DecidableEq, Repr

/-- A plan: the segments of one command in the order of emission (R193). -/
abbrev Plan := List Segment

/-- What a frame builder yields (spec/43_frame_families.md R250): the frames it forms in FB and the plan over them. -/
structure Built where
  frames : List Frame
  plan   : Plan
  deriving DecidableEq, Repr

/-! ### The descriptor -/

/-- Serialisation order of bits (spec/20_memory.md R65). -/
inductive BitOrder where
  | lsbFirst | msbFirst
  deriving DecidableEq, Repr

/-- `TimingProfile` (R191). -/
structure TimingProfile where
  headerMark  : Dur
  headerSpace : Dur
  bitMark     : Dur
  oneSpace    : Dur
  zeroSpace   : Dur
  trailer     : Trailer
  deriving DecidableEq, Repr

/-- `checksum_kind` (spec/42_checksum_tables.md R220). -/
inductive ChecksumKind where
  | none | sum8 | xor8 | nibbleSum | custom
  deriving DecidableEq, Repr

/-- `temp_step`: half a degree (1) or a whole degree (2) (R8, R162). -/
inductive TempStep where
  | half | whole
  deriving DecidableEq, Repr

/-- `b.frame_bits` of a flat-word brand, or `b.frame_len` of a byte-array brand: the length of frame `k` in bytes
(R8, spec/20_memory.md R63). -/
inductive FrameExtent where
  | bits (n : Nat)
  | bytes (len : Nat → Nat)

/-- `b.plan`, the emission-plan parameters (R8, R197 to R200). -/
structure PlanParams where
  blockMark : Dur
  blockGap  : Dur
  divMark   : Dur
  divGap    : Dur
  repMark   : Dur
  repGap    : Dur
  splits    : List Nat
  copies    : Nat
  deriving DecidableEq, Repr

/-- The Brand Descriptor (R8), the part every (brand, variant) has. Sets are predicates. `checksumMask len i` tells the bits
of byte `i` of a frame of `len` bytes that hold the checksum of a `custom` kind (spec/42_checksum_tables.md R237; log 18);
`finish` is `b.finish`, read only for that kind. -/
structure Descriptor where
  tempMin         : Int
  tempMax         : Int
  tempStep        : TempStep
  timing          : TimingProfile
  extent          : FrameExtent
  nFrames         : Nat
  bitOrder        : BitOrder
  checksumKind    : ChecksumKind
  supportedModes  : Mode → Bool
  supportedFans   : FanSpeed → Bool
  supportedSwings : SwingSetting → Bool
  defaultMode     : Mode
  defaultFan      : FanSpeed
  tempModes       : Mode → Bool
  uses            : PsField → Bool
  mtbNext         : NormCmd → PsView → BitVec 32
  finish          : List Byte → List Byte
  checksumMask    : Nat → Nat → Byte
  plan            : PlanParams

/-! ### The parameters of the brands -/

/-- A bit field of a frame byte: byte index, shift, mask (`X_TEMP_BYTE`, `X_TEMP_SHIFT`, `X_TEMP_MASK` of
spec/43_frame_families.md R254, the power field of R362). -/
structure FieldPos where
  byte  : Nat
  shift : Nat
  mask  : Byte
  deriving DecidableEq, Repr

/-- A temperature lookup table and the place of its entry in the frame (R229, R254). -/
structure TempTable where
  entries : List Byte
  field   : FieldPos
  deriving DecidableEq, Repr

/-- A flat-word brand: its control word has exactly `n` bits (R259 b). -/
structure WordBrand (n : Nat) where
  base : Descriptor
  ctrl : NormCmd → PsView → BitVec n

/-- A byte-array brand with one frame: `ctrl` is its OPEN control function `X_CTRL` (R253, R259). -/
structure ByteBrand where
  base : Descriptor
  ctrl : NormCmd → PsView → List Byte

/-- Yashima (spec/44_brands_flat_word.md R280, R281). -/
structure LookupBrand where
  base  : Descriptor
  ctrl  : NormCmd → PsView → List Byte
  table : TempTable

/-- The emission of a brand whose plan is OPEN (Gree, spec/45_brands_byte_array.md R321; log 16). -/
inductive Emission where
  | single | split
  deriving DecidableEq, Repr

/-- One of Gree's seven models (R320, R321): `GREE_CTRL`, `GREE_CHECKSUM`, `GREE_STORE` at that variant. Inside
`checksum` of variant 6 (YAG) stand constants that the original marks as unverified (R262, spec/93 U1). -/
structure GreeModel where
  base     : Descriptor
  ctrl     : NormCmd → PsView → List Byte
  checksum : List Byte → Byte
  store    : List Byte → Byte → List Byte
  emission : Emission

/-- Coolix (spec/46_brands_toggle_multipacket.md R350 to R354). `swingFrame` is `COOLIX_SWING`. -/
structure CoolixBrand where
  base       : Descriptor
  ctrl       : NormCmd → PsView → List Byte
  table      : TempTable
  swingFrame : List Byte

/-- Whirlpool (R360 to R364). `power` and `powerValue` are the four `WHIRLPOOL_POWER_*` constants. -/
structure WhirlpoolBrand where
  base       : Descriptor
  ctrl       : NormCmd → PsView → List Byte
  power      : FieldPos
  powerValue : Byte

/-- Toshiba RAS_2819T (R372, R373). `swingToggle` is `RAS2819T_SWING_TOGGLE`. -/
structure Ras2819tBrand where
  base        : Descriptor
  ctrl        : NormCmd → PsView → List Byte × List Byte
  swingToggle : List (List Byte)

/-- Toshiba RAC_PT1411HWRU (R374): `RACPT_MAIN_CTRL`, `RACPT_SWING_CTRL` and the table. -/
structure RacPtBrand where
  base      : Descriptor
  mainCtrl  : NormCmd → PsView → List Byte
  swingCtrl : NormCmd → PsView → List Byte
  table     : TempTable

/-- Daikin (R380, R381): `DAIKIN_BLOCK0`, `DAIKIN_BLOCK1`, `DAIKIN_BLOCK2`. They hold constants that the original marks as
unverified (R262, spec/93 U1). -/
structure DaikinBrand where
  base   : Descriptor
  block0 : NormCmd → PsView → List Byte
  block1 : NormCmd → PsView → List Byte
  block2 : NormCmd → PsView → List Byte

/-- The whole configuration (R8, R62, R141): which brands the Registry holds, and the parameters of all fifteen (log 2: also
of a brand that is not registered, where nothing can observe them). `MITSUBISHI_CTRL` holds the "presets" that the original
marks as unverified (R262, spec/93 U1). -/
structure Configuration where
  registered     : Brand → Bool
  lg             : WordBrand 28
  whynter        : WordBrand 32
  yashima        : LookupBrand
  ballu          : ByteBrand
  tcl            : ByteBrand
  mitsubishi     : ByteBrand
  midea          : ByteBrand
  gree           : Fin 7 → GreeModel
  fujitsu        : ByteBrand
  nec            : ByteBrand
  coolix         : CoolixBrand
  whirlpool      : WhirlpoolBrand
  toshibaGeneric : ByteBrand
  ras2819t       : Ras2819tBrand
  racPt          : RacPtBrand
  daikin         : DaikinBrand
  hitachi        : ByteBrand

end Sys2Proof
end

