-- ==== Sys2Proof/Machine/Bits.lean ====
section
/-! DEFINITION. Bit-level arithmetic (spec/00_scope.md R10, R11; spec/42_checksum_tables.md R227 to R233) and the order in
which bits leave a frame (spec/20_memory.md R65 to R67). -/

namespace Sys2Proof.Machine

/-- `floor_half(T)`: the whole degrees of a half-degree integer, toward minus infinity (R11). -/
def floorHalf (t : Int) : Int := t / 2

/-- `half(T)`: the half-degree bit (R11). -/
def half (t : Int) : Int := t % 2

/-- `rev8` (R227): bit `i` of the result is bit `7 - i` of `v`. -/
def rev8 (v : Byte) : Byte :=
  BitVec.ofFnLE fun i : Fin 8 => v.getLsbD (7 - i.val)

/-- `inv8` (R228). -/
def inv8 (v : Byte) : Byte := v ^^^ 0xFF

/-- `invert_pairs(F, first)` (R228): every odd-indexed byte from `first` on becomes the complement of its predecessor. Each
predecessor has an even index and is never written, so reading the frame before the operation is reading it in order. -/
def invertPairs (f : List Byte) (first : Nat) : List Byte :=
  f.mapIdx fun i b => if i % 2 = 1 ∧ first ≤ i then inv8 (f.getD (i - 1) 0) else b

/-- One byte with a field written (R232). -/
def putByte (b : Byte) (shift : Nat) (mask val : Byte) : Byte :=
  (b &&& ~~~(mask <<< shift)) ||| ((val &&& mask) <<< shift)

/-- `put(F, i, shift, mask, val)` (R232). -/
def put (f : List Byte) (i shift : Nat) (mask val : Byte) : List Byte :=
  f.modify i fun b => putByte b shift mask val

/-- `put` at a field position. -/
def putField (f : List Byte) (p : FieldPos) (val : Byte) : List Byte :=
  put f p.byte p.shift p.mask val

/-- `putw(w, shift, mask, val)` (R232). -/
def putw (w : Word) (shift : Nat) (mask val : Word) : Word :=
  (w &&& ~~~(mask <<< shift)) ||| ((val &&& mask) <<< shift)

/-- `bits_of_byte` (R65). -/
def bitsOfByte (o : BitOrder) (v : Byte) : List Bool :=
  match o with
  | .lsbFirst => (List.range 8).map v.getLsbD
  | .msbFirst => (List.range 8).reverse.map v.getLsbD

/-- `bits_of_bytes` (R66): bytes in ascending index whatever the bit order. -/
def bitsOfBytes (o : BitOrder) (bs : List Byte) : List Bool :=
  bs.flatMap (bitsOfByte o)

/-- `bits_of_word` (R67): the word is one `n`-bit unit. -/
def bitsOfWord (o : BitOrder) (n : Nat) (w : Word) : List Bool :=
  match o with
  | .lsbFirst => (List.range n).map w.getLsbD
  | .msbFirst => (List.range n).reverse.map w.getLsbD

/-- The bits of a frame in the brand's order (R195). -/
def frameBits (o : BitOrder) (f : Frame) : List Bool :=
  match f with
  | .word n w => bitsOfWord o n w
  | .bytes bs => bitsOfBytes o bs

/-- A byte from an integer that a rule puts into a field: its low eight bits (R11, R232). -/
def byteOf (t : Int) : Byte := BitVec.ofInt 8 t

end Sys2Proof.Machine
end

