-- ==== Sys2Proof/Machine/Checksum.lean ====
section
/-! DEFINITION. The checksum and table module (spec/42_checksum_tables.md R220 to R226, R229 to R231, R234, R237). -/

namespace Sys2Proof.Machine

/-- `sum8` (R221): the sum modulo 256. -/
def sum8 (bs : List Byte) : Byte := bs.foldl (· + ·) 0

/-- `xor8` (R222). -/
def xor8 (bs : List Byte) : Byte := bs.foldl (· ^^^ ·) 0

/-- `nibble(w, i) = w[4i+3:4i]` (R10, R223). -/
def nibble (w : Word) (i : Nat) : BitVec 4 := w.extractLsb' (4 * i) 4

/-- `nibsum` (R223): nibbles 1 to 7 added modulo 16. -/
def nibsum (w : Word) : BitVec 4 :=
  nibble w 1 + nibble w 2 + nibble w 3 + nibble w 4 + nibble w 5 + nibble w 6 + nibble w 7

/-- All bytes of a frame but the last, `F[0 .. n-2]` (R224). -/
def body (f : List Byte) : List Byte := f.dropLast

/-- The trailing checksum written into the last byte (R224). -/
def setTrailing (sum : List Byte → Byte) (f : List Byte) : List Byte :=
  f.set (f.length - 1) (sum (body f))

/-- `finish(b, F)` (R237), the checksum step every byte-array builder ends with. `nibbleSum` does not occur there. -/
def finish (d : Descriptor) (f : List Byte) : List Byte :=
  match d.checksumKind with
  | .none => f
  | .sum8 => setTrailing sum8 f
  | .xor8 => setTrailing xor8 f
  | .custom => d.finish f
  | .nibbleSum => f

/-- `temp_code(TABLE, b, T)` (R230): the entry at the whole-degree distance from the minimum. The index is in range for a
well-formed table and a normalised `T` (R231, spec/20_memory.md R79). -/
def tempCode (table : List Byte) (tempMin temp : Int) : Byte :=
  table.getD (floorHalf temp - floorHalf tempMin).toNat 0

/-- Checksum closure of an emitted frame (R225): for the trailing kinds the last byte is the checksum of the others. -/
def closed (d : Descriptor) (f : List Byte) : Prop :=
  match d.checksumKind with
  | .sum8 => f.getLast? = some (sum8 (body f))
  | .xor8 => f.getLast? = some (xor8 (body f))
  | _ => True

end Sys2Proof.Machine
end

