-- ==== Sys2Proof/Machine/Constants.lean ====
section
/-! DEFINITION. The numeric literals that the source settles, each a named constant (spec/00_scope.md R9;
spec/70_reset_and_hazards.md R461: the source's own literals are unaudited, so each keeps its name). -/

namespace Sys2Proof.Machine

/-- The least frame length of a byte-array brand, in bytes (R9, R15, R453 d). -/
def frameLenMin : Nat := 4
/-- The greatest frame length of a byte-array brand, in bytes (R9, R15, R453 d). -/
def frameLenMax : Nat := 43
/-- The greatest number of frames of a command (R28, R203, R453 d). -/
def framesMax : Nat := 3
/-- The container of a flat word, in bytes (R271, spec/90_conflicts.md C3). -/
def wordContainerLen : Nat := 4
/-- How many variants Toshiba has (R2, R9, R98). -/
def toshibaVariants : Nat := 3
/-- How many variants Gree has (R2, R9, R98). It is also the bound of `Target.gree`. -/
def greeVariants : Nat := 7
/-- The blocks of Daikin's message (R9, R380). -/
def daikinBlockCount : Nat := 3
/-- The packets of a normal command of Toshiba RAS_2819T (R9, R373). -/
def ras2819tPackets : Nat := 2
/-- The main block and the swing block of Toshiba RAC_PT1411HWRU (R9, R374). -/
def racPtBlocks : Nat := 2

/-- `LG.frame_bits` (R271). -/
def lgFrameBits : Nat := 28
/-- `LG_TEMP_OFFSET` (R271), in degrees. -/
def lgTempOffset : Int := 15
/-- The highest `LG.temp_max` that the 4-bit field can carry, in degrees (R235, R453 f). -/
def lgTempTop : Int := 30
/-- `LG_TEMP_SHIFT` (R271). -/
def lgTempShift : Nat := 8
/-- The mask of LG's 4-bit temperature field (R270). -/
def lgTempMask : Word := 0xF
/-- `WHYNTER.frame_bits` (R276). -/
def whynterFrameBits : Nat := 32
/-- `YASHIMA.frame_len` (R281). -/
def yashimaFrameLen : Nat := 9
/-- `BALLU_HDR0` (R301). -/
def balluHdr0 : Byte := 0xC3
/-- `BALLU.frame_len` (R301). -/
def balluFrameLen : Nat := 13
/-- TCL's `TEMP_MAX` in degrees (R305, R306). -/
def tclTempMax : Int := 31
/-- The lowest `TCL.temp_min` that the 4-bit field can carry, in degrees (R235, R453 f). -/
def tclTempBottom : Int := 16
/-- `TCL_TEMP_BYTE` (R306). -/
def tclTempByte : Nat := 7
/-- The mask of TCL's low-nibble temperature field (R305). -/
def tclTempMask : Byte := 0xF
/-- `TCL_HALF_BYTE` (R306). -/
def tclHalfByte : Nat := 12
/-- The bit of `TCL_HALF_MASK = 0x20` (R305, R306). -/
def tclHalfShift : Nat := 5
/-- The least `TCL.frame_len` (R306). -/
def tclMinFrameLen : Nat := 14
/-- Mitsubishi's `plan.copies` (R311). -/
def mitsubishiCopies : Nat := 2
/-- `plan.copies` of Toshiba GENERIC and RAS_2819T (R371, R372, R375). -/
def toshibaCopies : Nat := 2
/-- `HITACHI_PAIR_FIRST` (R391). -/
def hitachiPairFirst : Nat := 3

end Sys2Proof.Machine
end

