-- ==== Sys2Proof/Config/Rules.lean ====
section
/-! DEFINITION. What a well-formed configuration satisfies: spec/70_reset_and_hazards.md R453 (a) to (k), the contract of an
OPEN control function (spec/43_frame_families.md R259), and the constraints written at the brand rules. The block refuses an
ill-formed configuration at load (R453, spec/93 P8); in the model the type `WellFormedConfiguration` is that refusal. -/

namespace Sys2Proof

open Machine

/-- A duration of the configuration is not 0 (R191, R453 b). -/
def durOk (d : Dur) : Prop := d ≠ 0

/-- The durations of a trailer (R192, R453 b). -/
def trailerOk : Trailer → Prop
  | .none => True
  | .mark m => durOk m
  | .markGap m g => durOk m ∧ durOk g

/-- A well-formed timing profile (R191, R453 b). -/
structure TimingProfile.WellFormed (tp : TimingProfile) : Prop where
  headerMark  : durOk tp.headerMark
  headerSpace : durOk tp.headerSpace
  bitMark     : durOk tp.bitMark
  oneSpace    : durOk tp.oneSpace
  zeroSpace   : durOk tp.zeroSpace
  distinct    : tp.oneSpace ≠ tp.zeroSpace
  trailer     : trailerOk tp.trailer

/-- Well-formed plan parameters (R198 to R200, R453 b): durations, and at least one copy. -/
structure PlanParams.WellFormed (p : PlanParams) : Prop where
  blockMark : durOk p.blockMark
  blockGap  : durOk p.blockGap
  divMark   : durOk p.divMark
  divGap    : durOk p.divGap
  repMark   : durOk p.repMark
  repGap    : durOk p.repGap
  copies    : 1 ≤ p.copies

/-- Split counts `0 < c1 < ... < cm < len` (R199, R453 g). -/
def splitsOk (splits : List Nat) (len : Nat) : Prop :=
  splits.Pairwise (· < ·) ∧ ∀ c ∈ splits, 0 < c ∧ c < len

/-- The length of frame `k` in bytes: the container of a flat word has 4 (R63, spec/90_conflicts.md C3). -/
def Descriptor.frameLen (d : Descriptor) (k : Nat) : Nat :=
  match d.extent with
  | .bits _ => wordContainerLen
  | .bytes len => len k

/-- A well-formed descriptor: the conditions of R453 that hold for every brand. -/
structure Descriptor.WellFormed (d : Descriptor) : Prop where
  /-- R453 (a). The upper bound is the 16-bit width that spec/10_state.md R37 gives TEMP_MIN and TEMP_MAX, the registers
  in which the two fields are read, and R23 gives PREV_TEMP (log 3). -/
  bounds       : 0 < d.tempMin ∧ d.tempMin ≤ d.tempMax ∧ d.tempMax < 65536
  /-- R151, R453 (a). -/
  evenBounds   : d.tempStep = .whole → d.tempMin % 2 = 0 ∧ d.tempMax % 2 = 0
  timing       : d.timing.WellFormed
  plan         : d.plan.WellFormed
  /-- R453 (c), R148 to R150. -/
  modeOff      : d.supportedModes .off = true
  swingOff     : d.supportedSwings .off = true
  defaultMode  : d.supportedModes d.defaultMode = true
  defaultFan   : d.supportedFans d.defaultFan = true
  fanAuto      : d.supportedFans .auto = true → d.defaultFan = .auto
  /-- R8, R259 (f). -/
  tempModes    : ∀ m, d.tempModes m = true → d.supportedModes m = true
  /-- R453 (d). -/
  nFrames      : 1 ≤ d.nFrames ∧ d.nFrames ≤ framesMax
  frameLens    : ∀ k, k < d.nFrames → frameLenMin ≤ d.frameLen k ∧ d.frameLen k ≤ frameLenMax
  /-- R237 (log 18). -/
  finishLength : ∀ f, (d.finish f).length = f.length
  finishMask   : ∀ f i, (d.finish f).getD i 0 &&& ~~~(d.checksumMask f.length i) = f.getD i 0 &&& ~~~(d.checksumMask f.length i)

/-- A `NormCmd` of a descriptor (R16): supported values, a temperature inside the bounds, whole degrees for a whole-degree
brand. -/
structure NormCmd.ValidFor (n : NormCmd) (d : Descriptor) : Prop where
  mode  : d.supportedModes n.mode = true
  fan   : d.supportedFans n.fan = true
  swing : d.supportedSwings n.swing = true
  low   : d.tempMin ≤ n.temp
  high  : n.temp ≤ d.tempMax
  even  : d.tempStep = .whole → n.temp % 2 = 0

/-- Two views agree on the fields in `uses` (R259 d). -/
def agreeOn (uses : PsField → Bool) (v w : PsView) : Prop :=
  (uses .assumedPowerOn = true → v.assumedPowerOn = w.assumedPowerOn) ∧
  (uses .assumedSwingOn = true → v.assumedSwingOn = w.assumedSwingOn) ∧
  (uses .previousTemperature = true → v.previous.map Previous.temperature = w.previous.map Previous.temperature) ∧
  (uses .previousMode = true → v.previous.map Previous.mode = w.previous.map Previous.mode) ∧
  (uses .modeTransitionBits = true → v.modeTransitionBits = w.modeTransitionBits) ∧
  (uses .modelVariant = true → v.modelVariant = w.modelVariant)

/-- The bits of a byte frame of `len` bytes that hold its checksum (R224, R237), as byte index and bit mask. -/
def checksumBits (d : Descriptor) (len : Nat) : List (Nat × Byte) :=
  match d.checksumKind with
  | .sum8 => [(len - 1, 0xFF)]
  | .xor8 => [(len - 1, 0xFF)]
  | .custom => (List.range len).map fun i => (i, d.checksumMask len i)
  | _ => []

/-- The contract of a byte-valued control function (R259 b, c, d). `fixed n` lists the bit positions the brand rule writes for
the command `n`; together with the checksum positions they are 0 in the result. Clause (a) is the type. -/
structure CtrlContract (d : Descriptor) (len : Nat) (fixed : NormCmd → List (Nat × Byte))
    (ctrl : NormCmd → PsView → List Byte) : Prop where
  length : ∀ n v, n.ValidFor d → (ctrl n v).length = len
  zero   : ∀ n v, n.ValidFor d → ∀ p ∈ fixed n ++ checksumBits d len, (ctrl n v).getD p.1 0 &&& p.2 = 0
  uses   : ∀ n v w, n.ValidFor d → agreeOn d.uses v w → ctrl n v = ctrl n w

/-- A bit field inside one byte (R360) and narrower than it (R362): the shift is smaller than the width (R233), no bit of the
mask is lost by it, and the mask is not the whole byte. -/
def FieldPos.narrow (p : FieldPos) : Prop := p.shift < 8 ∧ (p.mask <<< p.shift) >>> p.shift = p.mask ∧ p.mask ≠ 0xFF

/-- A well-formed lookup table (R230, R231, R254, R453 e). `put` writes a byte of the frame (R232), so `X_TEMP_BYTE` is the
index of one (log 4); its shift is smaller than the width of a byte (R233); no rule constrains the mask further. -/
structure TempTable.WellFormed (t : TempTable) (d : Descriptor) (len : Nat) : Prop where
  whole  : d.tempStep = .whole
  length : (t.entries.length : Int) = (d.tempMax - d.tempMin) / 2 + 1
  fits   : ∀ e ∈ t.entries, e &&& t.field.mask = e
  byte   : t.field.byte < len
  shift  : t.field.shift < 8

/-- The temperature field of a lookup-table brand is fixed in the modes of `temp_modes` only (R254, R259 f). -/
def tableBits (d : Descriptor) (t : TempTable) (n : NormCmd) : List (Nat × Byte) :=
  if d.tempModes n.mode then [(t.field.byte, t.field.mask <<< t.field.shift)] else []

/-- No fixed position beyond the checksum's. -/
def noBits (_ : NormCmd) : List (Nat × Byte) := []

/-- A trailing-checksum kind: `Sum8` or `Xor8` (R224). -/
def trailingKind (k : ChecksumKind) : Prop := k = .sum8 ∨ k = .xor8

/-! ### The brands -/

/-- The view right after RESOLVE, in variant `v` (spec/10_state.md R35, R154). -/
def freshView (v : BitVec 4) : PsView :=
  { assumedPowerOn := false, assumedSwingOn := false, previous := none, modeTransitionBits := 0, modelVariant := v }

/-- LG (R270 to R273, R453 f, k): 28 bits, `NibbleSum`, whole degrees between 15 and 30; Cool carries the temperature
when supported; the contract R259; property P-LG-1. -/
structure WordBrand.LgRules (b : WordBrand 28) : Prop where
  base      : b.base.WellFormed
  extent    : b.base.extent = .bits lgFrameBits
  kind      : b.base.checksumKind = .nibbleSum
  one       : b.base.nFrames = 1
  whole     : b.base.tempStep = .whole
  low       : 2 * lgTempOffset ≤ b.base.tempMin
  high      : b.base.tempMax ≤ 2 * lgTempTop
  coolTemp  : b.base.supportedModes .cool = true → b.base.tempModes .cool = true
  sumZero   : ∀ n v, n.ValidFor b.base → (b.ctrl n v).extractLsb' 0 4 = 0
  fieldZero : ∀ n v, n.ValidFor b.base → b.base.tempModes n.mode = true → (b.ctrl n v).extractLsb' 8 4 = 0
  uses      : ∀ n v w, n.ValidFor b.base → agreeOn b.base.uses v w → b.ctrl n v = b.ctrl n w
  pLg1      : (b.ctrl ⟨.cool, 48, .high, .off⟩ (freshView 0)).extractLsb' 24 4 = 8

/-- Whynter (R275, R276, R453 k): 32 bits, no checksum. -/
structure WordBrand.WhynterRules (b : WordBrand 32) : Prop where
  base   : b.base.WellFormed
  extent : b.base.extent = .bits whynterFrameBits
  kind   : b.base.checksumKind = .none
  one    : b.base.nFrames = 1
  uses   : ∀ n v w, n.ValidFor b.base → agreeOn b.base.uses v w → b.ctrl n v = b.ctrl n w

/-- A byte-array descriptor with one frame (log 36). -/
structure Descriptor.OneByteFrame (d : Descriptor) : Prop where
  base  : d.WellFormed
  bytes : ∃ len, d.extent = .bytes len
  one   : d.nFrames = 1

/-- Yashima (R280, R281, R453 e, k). -/
structure LookupBrand.YashimaRules (b : LookupBrand) : Prop where
  desc  : b.base.OneByteFrame
  len   : b.base.frameLen 0 = yashimaFrameLen
  kind  : b.base.checksumKind ≠ .nibbleSum
  table : b.table.WellFormed b.base yashimaFrameLen
  ctrl  : CtrlContract b.base yashimaFrameLen (tableBits b.base b.table) b.ctrl

/-- Ballu (R300, R301, R453 k). -/
structure ByteBrand.BalluRules (b : ByteBrand) : Prop where
  desc : b.base.OneByteFrame
  len  : b.base.frameLen 0 = balluFrameLen
  kind : b.base.checksumKind = .sum8
  ctrl : CtrlContract b.base balluFrameLen (fun _ => [(0, 0xFF)]) b.ctrl

/-- TCL (R305, R306, R453 f). -/
structure ByteBrand.TclRules (b : ByteBrand) : Prop where
  desc : b.base.OneByteFrame
  len  : tclMinFrameLen ≤ b.base.frameLen 0
  kind : trailingKind b.base.checksumKind
  step : b.base.tempStep = .half
  low  : 2 * tclTempBottom ≤ b.base.tempMin
  high : b.base.tempMax = 2 * tclTempMax
  ctrl : CtrlContract b.base (b.base.frameLen 0)
    (fun n => if b.base.tempModes n.mode then [(tclTempByte, tclTempMask), (tclHalfByte, 1#8 <<< tclHalfShift)] else []) b.ctrl

/-- Mitsubishi and Midea (R310, R311, R315, R316): trailing checksum; `copies` is what the brand settles. -/
structure ByteBrand.TrailingRules (b : ByteBrand) (copies : Option Nat) : Prop where
  desc   : b.base.OneByteFrame
  kind   : trailingKind b.base.checksumKind
  copies : ∀ c, copies = some c → b.base.plan.copies = c
  ctrl   : CtrlContract b.base (b.base.frameLen 0) noBits b.ctrl

/-- One Gree model (R226, R320, R321, R237). -/
structure GreeModel.Rules (b : GreeModel) : Prop where
  desc    : b.base.OneByteFrame
  kind    : b.base.checksumKind = .custom
  finish  : ∀ f, b.base.finish f = b.store f (b.checksum f)
  variant : b.base.uses .modelVariant = true
  ctrl    : CtrlContract b.base (b.base.frameLen 0) noBits b.ctrl
  /-- R320, R225: on the frame emitted, `GREE_STORE` followed by recomputation yields the same frame. -/
  closure : ∀ n v, n.ValidFor b.base → ∀ f, f = b.store (b.ctrl n v) (b.checksum (b.ctrl n v)) → b.store f (b.checksum f) = f
  splits  : b.emission = .split → splitsOk b.base.plan.splits (b.base.frameLen 0)

/-- Fujitsu (R325, R326), NEC (R330, R331) and Toshiba GENERIC (R371, R375): any byte-array kind (R237; log 17). -/
structure ByteBrand.AnyKindRules (b : ByteBrand) (copies : Option Nat) (usesVariant : Bool) : Prop where
  desc    : b.base.OneByteFrame
  kind    : b.base.checksumKind ≠ .nibbleSum
  copies  : ∀ c, copies = some c → b.base.plan.copies = c
  variant : usesVariant = true → b.base.uses .modelVariant = true
  ctrl    : CtrlContract b.base (b.base.frameLen 0) noBits b.ctrl

/-- Coolix (R350 to R354, R453 e, h): `Sum8` or `Xor8`, as R354 says (the doubt is spec/93 GK4's). -/
structure CoolixBrand.Rules (b : CoolixBrand) : Prop where
  desc        : b.base.OneByteFrame
  kind        : trailingKind b.base.checksumKind
  usesSwing   : b.base.uses .assumedSwingOn = true
  vertical    : b.base.supportedSwings .vertical = true
  table       : b.table.WellFormed b.base (b.base.frameLen 0)
  ctrl        : CtrlContract b.base (b.base.frameLen 0) (tableBits b.base b.table) b.ctrl
  swingLength : b.swingFrame.length = b.base.frameLen 0
  swingClosed : closed b.base b.swingFrame

/-- Whirlpool (R360 to R364, R453 g): the power field is narrower than a byte, at a byte of the frame (log 4). -/
structure WhirlpoolBrand.Rules (b : WhirlpoolBrand) : Prop where
  desc      : b.base.OneByteFrame
  kind      : b.base.checksumKind ≠ .nibbleSum
  usesPower : b.base.uses .assumedPowerOn = true
  byte      : b.power.byte < b.base.frameLen 0
  narrow    : b.power.narrow
  value     : b.powerValue ≠ 0 ∧ b.powerValue &&& b.power.mask = b.powerValue
  splits    : b.base.plan.splits ≠ [] ∧ splitsOk b.base.plan.splits (b.base.frameLen 0)
  ctrl      : CtrlContract b.base (b.base.frameLen 0) (fun _ => [(b.power.byte, b.power.mask <<< b.power.shift)]) b.ctrl

/-- Toshiba RAS_2819T (R372, R373, R375, R453 h): two frames of one length; the toggle constant has one or two. -/
structure Ras2819tBrand.Rules (b : Ras2819tBrand) : Prop where
  base         : b.base.WellFormed
  bytes        : ∃ len, b.base.extent = .bytes len
  two          : b.base.nFrames = ras2819tPackets
  equal        : b.base.frameLen 1 = b.base.frameLen 0
  kind         : b.base.checksumKind ≠ .nibbleSum
  copies       : b.base.plan.copies = toshibaCopies
  usesSwing    : b.base.uses .assumedSwingOn = true
  variant      : b.base.uses .modelVariant = true
  ctrl0        : CtrlContract b.base (b.base.frameLen 0) noBits fun n v => (b.ctrl n v).1
  ctrl1        : CtrlContract b.base (b.base.frameLen 0) noBits fun n v => (b.ctrl n v).2
  toggleCount  : b.swingToggle.length = 1 ∨ b.swingToggle.length = 2
  toggleLength : ∀ f ∈ b.swingToggle, f.length = b.base.frameLen 0
  toggleClosed : ∀ f ∈ b.swingToggle, closed b.base f

/-- Toshiba RAC_PT1411HWRU (R374, R375, R453 e). Its main and swing blocks may have two lengths: the model's choice
(log 39). `absolute` is R374's "the swing block carries `NORM.swing` as absolute state" (spec/92 D27): it does not depend on
the assumed swing, also where `uses` holds it. -/
structure RacPtBrand.Rules (b : RacPtBrand) : Prop where
  base    : b.base.WellFormed
  bytes   : ∃ len, b.base.extent = .bytes len
  two     : b.base.nFrames = racPtBlocks
  kind    : b.base.checksumKind ≠ .nibbleSum
  variant : b.base.uses .modelVariant = true
  table   : b.table.WellFormed b.base (b.base.frameLen 0)
  main    : CtrlContract b.base (b.base.frameLen 0) (tableBits b.base b.table) b.mainCtrl
  swing   : CtrlContract b.base (b.base.frameLen 1) noBits b.swingCtrl
  absolute : ∀ n v assumed, n.ValidFor b.base → b.swingCtrl n { v with assumedSwingOn := assumed } = b.swingCtrl n v

/-- Daikin (R380, R381): three blocks of three lengths. -/
structure DaikinBrand.Rules (b : DaikinBrand) : Prop where
  base   : b.base.WellFormed
  bytes  : ∃ len, b.base.extent = .bytes len
  three  : b.base.nFrames = daikinBlockCount
  kind   : b.base.checksumKind ≠ .nibbleSum
  block0 : CtrlContract b.base (b.base.frameLen 0) noBits b.block0
  block1 : CtrlContract b.base (b.base.frameLen 1) noBits b.block1
  block2 : CtrlContract b.base (b.base.frameLen 2) noBits b.block2

/-- The positions Hitachi's inversion writes: odd indices from 3 (R228, R390). -/
def hitachiBits (len : Nat) (_ : NormCmd) : List (Nat × Byte) :=
  ((List.range len).filter fun i => i % 2 = 1 ∧ hitachiPairFirst ≤ i).map fun i => (i, 0xFF)

/-- Hitachi (R390, R391): the checksum is clear of the complemented bytes and of the bytes they complement, so that the
emitted frame keeps the pairs (log 21). -/
structure ByteBrand.HitachiRules (b : ByteBrand) : Prop where
  desc : b.base.OneByteFrame
  kind : b.base.checksumKind ≠ .nibbleSum
  clear : ∀ p ∈ checksumBits b.base (b.base.frameLen 0), p.2 ≠ 0 →
    ∀ i, i % 2 = 1 → hitachiPairFirst ≤ i → i < b.base.frameLen 0 → p.1 ≠ i ∧ p.1 + 1 ≠ i
  ctrl : CtrlContract b.base (b.base.frameLen 0) (hitachiBits (b.base.frameLen 0)) b.ctrl

/-- A well-formed configuration (R453). Clause (j), a descriptor for every variant, is the type of `Configuration`. The last
clause is the one property the source gives of Gree's checksum (R226): the YAG branch (variant 6) differs from the branch of
at least one other variant. -/
structure Configuration.WellFormed (c : Configuration) : Prop where
  lg             : c.lg.LgRules
  whynter        : c.whynter.WhynterRules
  yashima        : c.yashima.YashimaRules
  ballu          : c.ballu.BalluRules
  tcl            : c.tcl.TclRules
  mitsubishi     : c.mitsubishi.TrailingRules (some mitsubishiCopies)
  midea          : c.midea.TrailingRules none
  gree           : ∀ v, (c.gree v).Rules
  fujitsu        : c.fujitsu.AnyKindRules none false
  nec            : c.nec.AnyKindRules none false
  coolix         : c.coolix.Rules
  whirlpool      : c.whirlpool.Rules
  toshibaGeneric : c.toshibaGeneric.AnyKindRules (some toshibaCopies) true
  ras2819t       : c.ras2819t.Rules
  racPt          : c.racPt.Rules
  daikin         : c.daikin.Rules
  hitachi        : c.hitachi.HitachiRules
  greeYag        : ∃ v, v ≠ 6 ∧ ∃ f, (c.gree 6).checksum f ≠ (c.gree v).checksum f

/-- A configuration the block accepts (R453, spec/93 P8). -/
abbrev WellFormedConfiguration := { c : Configuration // c.WellFormed }

end Sys2Proof
end

