-- ==== Sys2Proof/Config/Toy.lean ====
section
/-! DEFINITION. The toy configuration T1 of spec/95_test_vectors.md section 2. Its values are the spec's own invention for
testing and NOT the values of any real remote control (spec/92_eei_decisions.md D44). It serves two purposes: the theorem
`Toy.t1_wellFormed` shows that R453 can be met, and the tests run the engine with it. The machine does not run with it: see
Sys2Proof/Config/Chosen.lean. -/

namespace Sys2Proof.Toy

open Sys2Proof.Machine

/-- TP1. -/
def tp1 : TimingProfile :=
  { headerMark := 9000, headerSpace := 4500, bitMark := 500, oneSpace := 1500, zeroSpace := 500, trailer := .mark 500 }

/-- The plan constants of T1. -/
def plan1 : PlanParams :=
  { blockMark := 500, blockGap := 30000, divMark := 500, divGap := 8000, repMark := 500, repGap := 17000
    splits := [], copies := 1 }

/-- All seven modes but HeatCool. -/
def modes1 (m : Mode) : Bool := decide (m ≠ .heatCool)

/-- All five fan speeds but Quiet. -/
def fans1 (f : FanSpeed) : Bool := decide (f ≠ .quiet)

/-- Off only. -/
def noSwing (s : SwingSetting) : Bool := decide (s = .off)

/-- Off and Vertical. -/
def vertical1 (s : SwingSetting) : Bool := decide (s = .off) || decide (s = .vertical)

/-- The defaults of T1 for a byte-array brand of `len` bytes. -/
def base1 (lo hi : Int) (len : Nat) (k : ChecksumKind) : Descriptor :=
  { tempMin := lo, tempMax := hi, tempStep := .whole, timing := tp1, extent := .bytes fun _ => len, nFrames := 1
    bitOrder := .lsbFirst, checksumKind := k, supportedModes := modes1, supportedFans := fans1
    supportedSwings := noSwing, defaultMode := .auto, defaultFan := .auto, tempModes := modes1
    uses := fun _ => false, mtbNext := fun _ v => v.modeTransitionBits, finish := id, checksumMask := fun _ _ => 0
    plan := plan1 }

/-! The codes `m`, `f`, `s` of T1's control functions (R94 to R96), as bytes. -/

/-- `m`. -/
def mc : Mode → Byte
  | .off => 0 | .heat => 1 | .cool => 2 | .dry => 3 | .fanOnly => 4 | .auto => 5 | .heatCool => 6
/-- `f`. -/
def fc : FanSpeed → Byte
  | .auto => 0 | .low => 1 | .medium => 2 | .high => 3 | .quiet => 4
/-- `s`. -/
def sc : SwingSetting → Byte
  | .off => 0 | .vertical => 1 | .horizontal => 2 | .both => 3
/-- `wh`, the whole-degree temperature. -/
def wh (n : NormCmd) : Byte := byteOf (floorHalf n.temp)
/-- `on`. -/
def on (n : NormCmd) : Byte := if n.mode = .off then 0 else 1
/-- 0 while swing is Off, else `x`. -/
def swingOr0 (n : NormCmd) (x : Byte) : Byte := if n.swing = .off then 0 else x

/-- LG's mode byte in T1. -/
def lgMode : Mode → BitVec 28
  | .off => 0xC0 | .heat => 4 | .cool => 0 | .dry => 1 | .fanOnly => 2 | .auto => 3 | .heatCool => 0
/-- LG's fan byte in T1. -/
def lgFan : FanSpeed → BitVec 28
  | .auto => 0x50 | .low => 0 | .medium => 0x20 | .high => 0x40 | .quiet => 0

/-- LG in T1. -/
def lg1 : WordBrand 28 :=
  { base := { base1 36 60 4 .nibbleSum with bitOrder := .msbFirst, extent := .bits 28 }
    ctrl := fun n _ => 0x8800000#28 ||| (lgMode n.mode <<< 12) ||| lgFan n.fan }

/-- Whynter in T1. -/
def whynter1 : WordBrand 32 :=
  { base := { base1 32 64 4 .none with
                bitOrder := .msbFirst, extent := .bits 32
                supportedModes := fun m => decide (m ≠ .heatCool) && decide (m ≠ .auto)
                tempModes := fun m => decide (m ≠ .heatCool) && decide (m ≠ .auto), defaultMode := .cool
                supportedFans := fun f => decide (f ≠ .quiet) && decide (f ≠ .auto), defaultFan := .low }
    ctrl := fun n _ => 0x12000000#32 ||| ((mc n.mode).setWidth 32 <<< 20) ||| ((fc n.fan).setWidth 32 <<< 16)
              ||| ((wh n).setWidth 32 <<< 8) ||| (on n).setWidth 32 }

/-- Yashima in T1. -/
def yashima1 : LookupBrand :=
  { base := base1 40 46 9 .none
    ctrl := fun n _ => [0x02, fc n.fan, mc n.mode, 0, 0, 0, 0, 0, 0]
    table := { entries := [0x6, 0x4, 0x5, 0x1], field := ⟨1, 4, 0xF⟩ } }

/-- Ballu in T1. -/
def ballu1 : ByteBrand :=
  { base := { base1 32 64 13 .sum8 with supportedSwings := vertical1 }
    ctrl := fun n _ =>
      [0, ((wh n - 8) <<< 3) ||| (if n.swing = .off then 7 else 0), 0, 0, fc n.fan, 0, mc n.mode <<< 5, 0, 0, 0, 0, 0, 0] }

/-- TCL in T1. -/
def tcl1 : ByteBrand :=
  { base := { base1 32 62 14 .sum8 with tempStep := .half, supportedSwings := vertical1 }
    ctrl := fun n _ => [0x23, 0xCB, 0x26, 0x01, 0x00, 0x24, mc n.mode, 0, fc n.fan, 0, 0, 0, sc n.swing, 0] }

/-- Mitsubishi in T1. -/
def mitsubishi1 : ByteBrand :=
  { base := { base1 32 62 4 .sum8 with supportedSwings := vertical1, plan := { plan1 with copies := 2 } }
    ctrl := fun n _ => [0x23, (mc n.mode <<< 4) ||| fc n.fan, wh n, 0] }

/-- Midea in T1. -/
def midea1 : ByteBrand :=
  { base := base1 34 60 4 .xor8
    ctrl := fun n _ => [0xA1, (mc n.mode <<< 4) ||| fc n.fan, wh n, 0] }

/-- `GREE_CHECKSUM` of T1: one constant for variant 6, another for the rest. -/
def greeSum (v : Fin 7) (f : List Byte) : Byte :=
  ((f.getD 0 0 &&& 0xF) + (f.getD 1 0 &&& 0xF) + (f.getD 2 0 &&& 0xF) + (if v = 6 then 0x5 else 0xA)) &&& 0xF

/-- `GREE_STORE` of T1. -/
def greeStore (f : List Byte) (x : Byte) : List Byte := put f 3 4 0xF x

/-- Gree in T1. -/
def gree1 (v : Fin 7) : GreeModel :=
  { base := { base1 32 60 4 .custom with
                supportedSwings := vertical1, uses := fun p => decide (p = .modelVariant)
                finish := fun f => greeStore f (greeSum v f)
                checksumMask := fun _ i => if i = 3 then 0xF0 else 0 }
    ctrl := fun n _ => [(fc n.fan <<< 4) ||| mc n.mode, wh n - 16, swingOr0 n 0x20, 0]
    checksum := greeSum v
    store := greeStore
    emission := .single }

/-- Fujitsu in T1. -/
def fujitsu1 : ByteBrand :=
  { base := { base1 32 60 4 .none with supportedFans := fun _ => true, supportedSwings := fun _ => true }
    ctrl := fun n _ => [0x14, 0x63, (mc n.mode <<< 4) ||| fc n.fan, (wh n <<< 2) ||| sc n.swing] }

/-- NEC in T1. -/
def nec1 : ByteBrand :=
  { base := { base1 32 60 4 .none with defaultMode := .cool }
    ctrl := fun n _ => let x := (mc n.mode <<< 5) ||| (wh n - 16); [0x00, 0xFF, x, inv8 x] }

/-- Coolix in T1. -/
def coolix1 : CoolixBrand :=
  { base := { base1 34 60 4 .sum8 with
                bitOrder := .msbFirst, supportedSwings := vertical1, uses := fun p => decide (p = .assumedSwingOn) }
    ctrl := fun n _ => [0xB2, 0x1F#8 ||| (fc n.fan <<< 5), mc n.mode, 0]
    table := { entries := [0, 1, 3, 2, 6, 7, 5, 4, 12, 13, 9, 8, 10, 11], field := ⟨2, 4, 0xF⟩ }
    swingFrame := [0xB2, 0x6B, 0xE0, 0xFD] }

/-- Whirlpool in T1. -/
def whirlpool1 : WhirlpoolBrand :=
  { base := { base1 36 64 8 .xor8 with
                supportedSwings := vertical1, uses := fun p => decide (p = .assumedPowerOn)
                plan := { plan1 with splits := [2, 5] } }
    ctrl := fun n _ => [0x83, 0x06, fc n.fan, ((wh n - 18) <<< 4) ||| mc n.mode, swingOr0 n 0x80, 0, 0, 0]
    power := ⟨2, 2, 0x1⟩
    powerValue := 1 }

/-- Toshiba GENERIC in T1. -/
def toshibaGeneric1 : ByteBrand :=
  { base := { base1 34 60 5 .xor8 with
                uses := fun p => decide (p = .modelVariant), plan := { plan1 with copies := 2 } }
    ctrl := fun n _ => [0xF2, 0x0D, ((wh n - 17) <<< 4) ||| mc n.mode, fc n.fan <<< 5, 0] }

/-- Toshiba RAS_2819T in T1. -/
def ras2819t1 : Ras2819tBrand :=
  { base := { base1 34 60 4 .xor8 with
                nFrames := 2, supportedSwings := vertical1
                uses := fun p => decide (p = .modelVariant) || decide (p = .assumedSwingOn)
                plan := { plan1 with copies := 2 } }
    ctrl := fun n _ => ([0xC2, (mc n.mode <<< 4) ||| fc n.fan, wh n, 0], [0xD5, 0, 0, 0])
    swingToggle := [[0xC2, 0x3D, 0x6B, 0x94]] }

/-- Toshiba RAC_PT1411HWRU in T1. -/
def racPt1 : RacPtBrand :=
  { base := { base1 32 38 4 .xor8 with
                nFrames := 2, supportedSwings := vertical1, uses := fun p => decide (p = .modelVariant) }
    mainCtrl := fun n _ => [0xB2, fc n.fan, mc n.mode, 0]
    swingCtrl := fun n _ => [0xB5, sc n.swing, 0, 0]
    table := { entries := [0, 1, 3, 2], field := ⟨2, 4, 0xF⟩ } }

/-- The block lengths of Daikin in T1. -/
def daikinLen (k : Nat) : Nat := if k = 2 then 5 else 4

/-- Daikin in T1. -/
def daikin1 : DaikinBrand :=
  { base := { base1 36 64 4 .sum8 with
                extent := .bytes daikinLen, nFrames := 3, supportedFans := fun _ => true, supportedSwings := fun _ => true }
    block0 := fun _ _ => [0x11, 0xDA, 0x27, 0]
    block1 := fun _ _ => [0x11, 0xDA, 0x42, 0]
    block2 := fun n _ => [0x11, (mc n.mode <<< 4) ||| on n, byteOf n.temp, (fc n.fan <<< 4) ||| sc n.swing, 0] }

/-- Hitachi in T1. -/
def hitachi1 : ByteBrand :=
  { base := { base1 32 64 7 .none with supportedSwings := vertical1 }
    ctrl := fun n _ => [0x01, 0x10, wh n, 0, (mc n.mode <<< 4) ||| fc n.fan, 0, sc n.swing] }

/-- T1 whole, all fifteen brands registered. -/
def t1 : Configuration :=
  { registered := fun _ => true, lg := lg1, whynter := whynter1, yashima := yashima1, ballu := ballu1, tcl := tcl1
    mitsubishi := mitsubishi1, midea := midea1, gree := gree1, fujitsu := fujitsu1, nec := nec1, coolix := coolix1
    whirlpool := whirlpool1, toshibaGeneric := toshibaGeneric1, ras2819t := ras2819t1, racPt := racPt1
    daikin := daikin1, hitachi := hitachi1 }

/-! ### T1 is well-formed -/

theorem tp1_wellFormed : tp1.WellFormed := by
  constructor <;> simp [tp1, durOk, trailerOk]

theorem plan1_wellFormed (splits : List Nat) (copies : Nat) (h : 1 ≤ copies) :
    ({ plan1 with splits := splits, copies := copies } : PlanParams).WellFormed := by
  constructor <;> simp [plan1, durOk, h]

/-- The conditions of a descriptor whose timing is TP1 and whose `finish` changes nothing. -/
theorem wellFormed_of (d : Descriptor) (bounds : 0 < d.tempMin ∧ d.tempMin ≤ d.tempMax ∧ d.tempMax < 65536)
    (even : d.tempStep = .whole → d.tempMin % 2 = 0 ∧ d.tempMax % 2 = 0) (ht : d.timing = tp1)
    (hp : d.plan.WellFormed) (caps : d.supportedModes .off = true ∧ d.supportedSwings .off = true ∧
      d.supportedModes d.defaultMode = true ∧ d.supportedFans d.defaultFan = true ∧
      (d.supportedFans .auto = true → d.defaultFan = .auto))
    (temp : d.tempModes = d.supportedModes) (hn : 1 ≤ d.nFrames ∧ d.nFrames ≤ 3)
    (hl : ∀ k, k < d.nFrames → 4 ≤ d.frameLen k ∧ d.frameLen k ≤ 43) (hf : d.finish = id) : d.WellFormed where
  bounds := bounds
  evenBounds := even
  timing := ht ▸ tp1_wellFormed
  plan := hp
  modeOff := caps.1
  swingOff := caps.2.1
  defaultMode := caps.2.2.1
  defaultFan := caps.2.2.2.1
  fanAuto := caps.2.2.2.2
  tempModes := fun m h => temp ▸ h
  nFrames := hn
  frameLens := hl
  finishLength := fun f => by rw [hf]; rfl
  finishMask := fun f i => by rw [hf]; rfl

/-- Fixed positions are 0 when evaluating the list says so. -/
theorem zero_of (l : List Byte) (ps : List (Nat × Byte)) (h : (ps.all fun p => l.getD p.1 0 &&& p.2 == 0) = true) :
    ∀ p ∈ ps, l.getD p.1 0 &&& p.2 = 0 := fun p hp => by
  simpa using List.all_eq_true.1 h p hp

/-- A contract whose fixed positions are a list that does not depend on the temperature. -/
theorem contract_of (d : Descriptor) (len : Nat) (fixed : NormCmd → List (Nat × Byte)) (ctrl : NormCmd → PsView → List Byte)
    (hl : ∀ n v, (ctrl n v).length = len)
    (hz : ∀ n v, n.ValidFor d → ∀ p ∈ fixed n ++ checksumBits d len, (ctrl n v).getD p.1 0 &&& p.2 = 0)
    (hu : ∀ n v w, ctrl n v = ctrl n w) : CtrlContract d len fixed ctrl where
  length := fun n v _ => hl n v
  zero := hz
  uses := fun n v w _ _ => hu n v w

/-- T1's LG control word is 0 in the checksum nibble and in the temperature field. -/
theorem lgFields_zero (m : Mode) (f : FanSpeed) :
    (0x8800000#28 ||| (lgMode m <<< 12) ||| lgFan f).extractLsb' 0 4 = 0 ∧
    (0x8800000#28 ||| (lgMode m <<< 12) ||| lgFan f).extractLsb' 8 4 = 0 := by
  cases m <;> cases f <;> decide

theorem lg1_rules : lg1.LgRules where
  base := wellFormed_of _ (by decide) (by decide) rfl (plan1_wellFormed _ _ (by decide)) (by decide) rfl (by decide)
    (by decide) rfl
  extent := rfl
  kind := rfl
  one := rfl
  whole := rfl
  low := by decide
  high := by decide
  coolTemp := by decide
  sumZero := fun n _ _ => lgFields_zero n.mode n.fan |>.1
  fieldZero := fun n _ _ _ => lgFields_zero n.mode n.fan |>.2
  uses := fun _ _ _ _ _ => rfl
  pLg1 := by decide

theorem whynter1_rules : whynter1.WhynterRules where
  base := wellFormed_of _ (by decide) (by decide) rfl (plan1_wellFormed _ _ (by decide)) (by decide) rfl (by decide)
    (by decide) rfl
  extent := rfl
  kind := rfl
  one := rfl
  uses := fun _ _ _ _ _ => rfl

/-- Yashima's fixed positions are 0 in T1. -/
theorem yashima1_zero (m : Mode) (f : FanSpeed) :
    ((tableBits yashima1.base yashima1.table ⟨m, 0, f, .off⟩ ++ checksumBits yashima1.base yashimaFrameLen).all fun p =>
      (yashima1.ctrl ⟨m, 0, f, .off⟩ (freshView 0)).getD p.1 0 &&& p.2 == 0) = true := by
  cases m <;> cases f <;> decide

theorem yashima1_rules : yashima1.YashimaRules where
  desc := ⟨wellFormed_of _ (by decide) (by decide) rfl (plan1_wellFormed _ _ (by decide)) (by decide) rfl (by decide)
    (by decide) rfl, ⟨_, rfl⟩, rfl⟩
  len := rfl
  kind := by decide
  table := ⟨rfl, by decide, by decide, by decide, by decide⟩
  ctrl := contract_of _ _ _ _ (fun _ _ => rfl) (fun n _ _ => zero_of _ _ (yashima1_zero n.mode n.fan)) fun _ _ _ => rfl

theorem ballu1_rules : ballu1.BalluRules where
  desc := ⟨wellFormed_of _ (by decide) (by decide) rfl (plan1_wellFormed _ _ (by decide)) (by decide) rfl (by decide)
    (by decide) rfl, ⟨_, rfl⟩, rfl⟩
  len := rfl
  kind := rfl
  ctrl := contract_of _ _ _ _ (fun _ _ => rfl) (fun _ _ _ => zero_of _ _ (by
    simp [ballu1, checksumBits, base1, balluFrameLen])) fun _ _ _ => rfl

/-- TCL's fixed positions are 0 in T1. -/
theorem tcl1_zero (m : Mode) (f : FanSpeed) (w : SwingSetting) :
    (((if tcl1.base.tempModes m then [(tclTempByte, tclTempMask), (tclHalfByte, 1#8 <<< tclHalfShift)] else []) ++
        checksumBits tcl1.base (tcl1.base.frameLen 0)).all fun p =>
      (tcl1.ctrl ⟨m, 0, f, w⟩ (freshView 0)).getD p.1 0 &&& p.2 == 0) = true := by
  cases m <;> cases f <;> cases w <;> decide

theorem tcl1_rules : tcl1.TclRules where
  desc := ⟨wellFormed_of _ (by decide) (by decide) rfl (plan1_wellFormed _ _ (by decide)) (by decide) rfl (by decide)
    (by decide) rfl, ⟨_, rfl⟩, rfl⟩
  len := by decide
  kind := Or.inl rfl
  step := rfl
  low := by decide
  high := rfl
  ctrl := contract_of _ _ _ _ (fun _ _ => rfl) (fun n _ _ =>
    zero_of _ _ (tcl1_zero n.mode n.fan n.swing)) fun _ _ _ => rfl

theorem mitsubishi1_rules : mitsubishi1.TrailingRules (some mitsubishiCopies) where
  desc := ⟨wellFormed_of _ (by decide) (by decide) rfl (plan1_wellFormed _ _ (by decide)) (by decide) rfl (by decide)
    (by decide) rfl, ⟨_, rfl⟩, rfl⟩
  kind := Or.inl rfl
  copies := fun _ h => Option.some.inj h
  ctrl := contract_of _ _ _ _ (fun _ _ => rfl) (fun _ _ _ => zero_of _ _ (by
    simp [mitsubishi1, checksumBits, base1, noBits, Descriptor.frameLen])) fun _ _ _ => rfl

theorem midea1_rules : midea1.TrailingRules none where
  desc := ⟨wellFormed_of _ (by decide) (by decide) rfl (plan1_wellFormed _ _ (by decide)) (by decide) rfl (by decide)
    (by decide) rfl, ⟨_, rfl⟩, rfl⟩
  kind := Or.inr rfl
  copies := fun _ h => nomatch h
  ctrl := contract_of _ _ _ _ (fun _ _ => rfl) (fun _ _ _ => zero_of _ _ (by
    simp [midea1, checksumBits, base1, noBits, Descriptor.frameLen])) fun _ _ _ => rfl

/-- Storing the checksum leaves what it was computed from. -/
theorem greeSum_store (v : Fin 7) (f : List Byte) (x : Byte) : greeSum v (greeStore f x) = greeSum v f := by
  unfold greeSum greeStore put
  simp [List.getD_eq_getElem?_getD]

/-- Storing the same value twice is storing it once. -/
theorem greeStore_twice (f : List Byte) (x : Byte) : greeStore (greeStore f x) x = greeStore f x := by
  unfold greeStore put
  rw [List.modify_modify_eq]
  congr 1
  funext b
  simp only [Function.comp_apply, putByte]
  ext i hi
  interval_cases i <;> simp

theorem gree1_rules (v : Fin 7) : (gree1 v).Rules where
  desc :=
    { base :=
        { bounds := by simp [gree1, base1]
          evenBounds := by simp [gree1, base1]
          timing := tp1_wellFormed
          plan := plan1_wellFormed _ _ (by decide)
          modeOff := rfl
          swingOff := rfl
          defaultMode := rfl
          defaultFan := rfl
          fanAuto := fun _ => rfl
          tempModes := fun _ h => h
          nFrames := by simp [gree1, base1, framesMax]
          frameLens := by simp [gree1, base1, Descriptor.frameLen, frameLenMin, frameLenMax]
          finishLength := fun f => by simp [gree1, greeStore, put]
          finishMask := fun f i => by
            simp only [gree1, greeStore, put, List.getD_eq_getElem?_getD, List.getElem?_modify]
            by_cases hi : 3 = i
            · subst hi
              cases f[3]? with
              | none => rfl
              | some b =>
                simp only [putByte, if_true, Option.getD_some]
                ext j hj
                interval_cases j <;> simp
            · simp [hi] }
      bytes := ⟨_, rfl⟩
      one := rfl }
  kind := rfl
  finish := fun _ => rfl
  variant := rfl
  ctrl := contract_of _ _ _ _ (fun _ _ => rfl) (by
    intro n w _ p hp
    simp only [noBits, checksumBits, gree1, base1, Descriptor.frameLen, List.nil_append, List.mem_map, List.mem_range] at hp
    obtain ⟨i, hi, rfl⟩ := hp
    interval_cases i <;> simp [gree1]) fun _ _ _ => rfl
  closure := fun n v _ f hf => by
    subst hf
    simp only [gree1]
    rw [greeSum_store, greeStore_twice]
  splits := fun h => nomatch h

theorem fujitsu1_rules : fujitsu1.AnyKindRules none false where
  desc := ⟨wellFormed_of _ (by decide) (by decide) rfl (plan1_wellFormed _ _ (by decide)) (by decide) rfl (by decide)
    (by decide) rfl, ⟨_, rfl⟩, rfl⟩
  kind := by decide
  copies := fun _ h => nomatch h
  variant := fun h => nomatch h
  ctrl := contract_of _ _ _ _ (fun _ _ => rfl) (fun _ _ _ _ hp => nomatch hp) fun _ _ _ => rfl

theorem nec1_rules : nec1.AnyKindRules none false where
  desc := ⟨wellFormed_of _ (by decide) (by decide) rfl (plan1_wellFormed _ _ (by decide)) (by decide) rfl (by decide)
    (by decide) rfl, ⟨_, rfl⟩, rfl⟩
  kind := by decide
  copies := fun _ h => nomatch h
  variant := fun h => nomatch h
  ctrl := contract_of _ _ _ _ (fun _ _ => rfl) (fun _ _ _ _ hp => nomatch hp) fun _ _ _ => rfl

/-- Coolix's fixed positions are 0 in T1. -/
theorem coolix1_zero (m : Mode) (f : FanSpeed) :
    ((tableBits coolix1.base coolix1.table ⟨m, 0, f, .off⟩ ++ checksumBits coolix1.base (coolix1.base.frameLen 0)).all
      fun p => (coolix1.ctrl ⟨m, 0, f, .off⟩ (freshView 0)).getD p.1 0 &&& p.2 == 0) = true := by
  cases m <;> cases f <;> decide

theorem coolix1_rules : coolix1.Rules where
  desc := ⟨wellFormed_of _ (by decide) (by decide) rfl (plan1_wellFormed _ _ (by decide)) (by decide) rfl (by decide)
    (by decide) rfl, ⟨_, rfl⟩, rfl⟩
  kind := Or.inl rfl
  usesSwing := rfl
  vertical := rfl
  table := ⟨rfl, by decide, by decide, by decide, by decide⟩
  ctrl := contract_of _ _ _ _ (fun _ _ => rfl) (fun n _ _ => zero_of _ _ (coolix1_zero n.mode n.fan)) fun _ _ _ => rfl
  swingLength := rfl
  swingClosed := by show _ = _; decide

theorem whirlpool1_rules : whirlpool1.Rules where
  desc := ⟨wellFormed_of _ (by decide) (by decide) rfl (plan1_wellFormed _ _ (by decide)) (by decide) rfl (by decide)
    (by decide) rfl, ⟨_, rfl⟩, rfl⟩
  kind := by decide
  usesPower := rfl
  byte := by decide
  narrow := by unfold FieldPos.narrow; decide
  value := by decide
  splits := ⟨by decide, by decide, by decide⟩
  ctrl := contract_of _ _ _ _ (fun _ _ => rfl) (by
    rintro ⟨m, t, f, s⟩ v hv
    have hq := hv.fan
    cases f
    case quiet => exact absurd (show fans1 .quiet = true from hq) (by decide)
    all_goals exact zero_of _ _ (by simp [whirlpool1, checksumBits, base1, Descriptor.frameLen, fc])) fun _ _ _ => rfl

theorem toshibaGeneric1_rules : toshibaGeneric1.AnyKindRules (some toshibaCopies) true where
  desc := ⟨wellFormed_of _ (by decide) (by decide) rfl (plan1_wellFormed _ _ (by decide)) (by decide) rfl (by decide)
    (by decide) rfl, ⟨_, rfl⟩, rfl⟩
  kind := by decide
  copies := fun _ h => Option.some.inj h
  variant := fun _ => rfl
  ctrl := contract_of _ _ _ _ (fun _ _ => rfl) (fun _ _ _ => zero_of _ _ (by
    simp [toshibaGeneric1, checksumBits, base1, noBits, Descriptor.frameLen])) fun _ _ _ => rfl

theorem ras2819t1_rules : ras2819t1.Rules where
  base := wellFormed_of _ (by decide) (by decide) rfl (plan1_wellFormed _ _ (by decide)) (by decide) rfl (by decide)
    (by decide) rfl
  bytes := ⟨_, rfl⟩
  two := rfl
  equal := rfl
  kind := by decide
  copies := rfl
  usesSwing := rfl
  variant := rfl
  ctrl0 := contract_of _ _ _ _ (fun _ _ => rfl) (fun _ _ _ => zero_of _ _ (by
    simp [ras2819t1, checksumBits, base1, noBits, Descriptor.frameLen])) fun _ _ _ => rfl
  ctrl1 := contract_of _ _ _ _ (fun _ _ => rfl) (fun _ _ _ => zero_of _ _ (by
    simp [ras2819t1, checksumBits, base1, noBits, Descriptor.frameLen])) fun _ _ _ => rfl
  toggleCount := by decide
  toggleLength := by decide
  toggleClosed := by
    intro f hf
    have hf' : f = [0xC2, 0x3D, 0x6B, 0x94] := by simpa [ras2819t1] using hf
    subst hf'
    show _ = _
    decide

/-- The main block's fixed positions are 0 in T1. -/
theorem racPt1_zero (m : Mode) (f : FanSpeed) :
    ((tableBits racPt1.base racPt1.table ⟨m, 0, f, .off⟩ ++ checksumBits racPt1.base (racPt1.base.frameLen 0)).all
      fun p => (racPt1.mainCtrl ⟨m, 0, f, .off⟩ (freshView 0)).getD p.1 0 &&& p.2 == 0) = true := by
  cases m <;> cases f <;> decide

theorem racPt1_rules : racPt1.Rules where
  base := wellFormed_of _ (by decide) (by decide) rfl (plan1_wellFormed _ _ (by decide)) (by decide) rfl (by decide)
    (by decide) rfl
  bytes := ⟨_, rfl⟩
  two := rfl
  kind := by decide
  variant := rfl
  table := ⟨rfl, by decide, by decide, by decide, by decide⟩
  main := contract_of _ _ _ _ (fun _ _ => rfl) (fun n _ _ => zero_of _ _ (racPt1_zero n.mode n.fan)) fun _ _ _ => rfl
  swing := contract_of _ _ _ _ (fun _ _ => rfl) (by
    rintro ⟨m, t, f, s⟩ v _
    exact zero_of _ _ (by simp [racPt1, checksumBits, base1, noBits, Descriptor.frameLen])) fun _ _ _ => rfl
  absolute := fun _ _ _ _ => rfl

theorem daikin1_rules : daikin1.Rules where
  base := wellFormed_of _ (by decide) (by decide) rfl (plan1_wellFormed _ _ (by decide)) (by decide) rfl (by decide)
    (by decide) rfl
  bytes := ⟨_, rfl⟩
  three := rfl
  kind := by decide
  block0 := contract_of _ _ _ _ (fun _ _ => rfl) (fun _ _ _ => zero_of _ _ (by
    simp [daikin1, checksumBits, base1, noBits, Descriptor.frameLen, daikinLen])) fun _ _ _ => rfl
  block1 := contract_of _ _ _ _ (fun _ _ => rfl) (fun _ _ _ => zero_of _ _ (by
    simp [daikin1, checksumBits, base1, noBits, Descriptor.frameLen, daikinLen])) fun _ _ _ => rfl
  block2 := contract_of _ _ _ _ (fun _ _ => rfl) (fun _ _ _ => zero_of _ _ (by
    simp [daikin1, checksumBits, base1, noBits, Descriptor.frameLen, daikinLen])) fun _ _ _ => rfl

theorem hitachi1_rules : hitachi1.HitachiRules where
  desc := ⟨wellFormed_of _ (by decide) (by decide) rfl (plan1_wellFormed _ _ (by decide)) (by decide) rfl (by decide)
    (by decide) rfl, ⟨_, rfl⟩, rfl⟩
  kind := by decide
  clear := fun _ hp => nomatch hp
  ctrl := contract_of _ _ _ _ (fun _ _ => rfl) (fun _ _ _ => zero_of _ _ (by
    simp [hitachi1, checksumBits, base1, hitachiBits, hitachiPairFirst, Descriptor.frameLen]
    intro x hx
    interval_cases x <;> simp)) fun _ _ _ => rfl

/-- R453 can be met: T1 is well-formed (spec/95_test_vectors.md section 2). -/
theorem t1_wellFormed : t1.WellFormed where
  lg := lg1_rules
  whynter := whynter1_rules
  yashima := yashima1_rules
  ballu := ballu1_rules
  tcl := tcl1_rules
  mitsubishi := mitsubishi1_rules
  midea := midea1_rules
  gree := gree1_rules
  fujitsu := fujitsu1_rules
  nec := nec1_rules
  coolix := coolix1_rules
  whirlpool := whirlpool1_rules
  toshibaGeneric := toshibaGeneric1_rules
  ras2819t := ras2819t1_rules
  racPt := racPt1_rules
  daikin := daikin1_rules
  hitachi := hitachi1_rules
  greeYag := ⟨0, by decide, [], by decide⟩

end Sys2Proof.Toy
end

