-- ==== Sys2Proof/Config/Chosen.lean ====
section
/-! DEFINITION. The configuration the machine runs with. Every OPEN parameter of the spec (spec/92_eei_decisions.md Table 2,
spec/93_implementation_defined.md P1 to P8) is a free value: `chosenConfiguration` is one opaque constant, so nothing can be
proved of it but that it is well-formed (R453), and a claim about the machine holds for every well-formed configuration a
platform may supply (R452 (1), R466, R476; log 1). -/

namespace Sys2Proof

/-- Some well-formed configuration. There is one only if the type has a member; Lean asks for that as an argument. -/
opaque chosenConfiguration [Inhabited WellFormedConfiguration] : WellFormedConfiguration

/-- The configuration in use. T1 is named here only to show that a well-formed configuration exists; that it is the one in
use cannot be proved. -/
def theChoice : WellFormedConfiguration := @chosenConfiguration ⟨⟨Toy.t1, Toy.t1_wellFormed⟩⟩

/-- The configuration in use (R62). It is read-only and the same for every instance. -/
def theConfig : Configuration := theChoice.val

/-- All that is known of the configuration in use: R453. -/
theorem theConfig_wellFormed : theConfig.WellFormed := theChoice.property

end Sys2Proof
end

