-- ==== Sys2Proof/Machine/State.lean ====
section
/-! DEFINITION. The state of one encoder instance (spec/10_state.md R20), plain data, and the state after reset (R36). The
configuration is no state (R18, R20). Registers that a rule says hold no value are options (R41). -/

namespace Sys2Proof.Machine

/-- `DIAG` (R25). -/
structure Diag where
  clamped   : Bool
  defaulted : Bool
  ignored   : Bool
  deriving DecidableEq, Repr

/-- `DIAG = 0`. -/
def Diag.zero : Diag := { clamped := false, defaulted := false, ignored := false }

/-- `PS`, the ProtocolState (R23), but for `model_variant`, which is the VARIANT register (R22). `previous` holds
`previous_temperature` and `previous_mode`; `PS.prev_valid` is `previous.isSome` (R41; log 10). -/
structure ProtocolState where
  assumedPowerOn     : Bool
  assumedSwingOn     : Bool
  previous           : Option Previous
  modeTransitionBits : BitVec 32
  deriving DecidableEq, Repr

/-- What exists while `BOUND = 1` (R22, R34): the binding (BRAND and VARIANT together name a target; log 9) and `PS`. -/
structure Facade where
  target : Target
  ps     : ProtocolState
  deriving DecidableEq, Repr

/-- The operand latch `CMD` (R21): each operation loads its own operands and no others; the rest hold no value. -/
inductive Latch where
  | generate (cmd : ClimateCommand)
  | resolve (brand : BitVec 8) (variant : BitVec 4)
  | query (sel : BitVec 4)
  deriving DecidableEq, Repr

/-- The statuses of a response (spec/30_encoding.md R100). Codes 4 to 15 are never produced. -/
inductive Status where
  | ok | unsupportedBrand | notBound | illegalOp
  deriving DecidableEq, Repr

/-- `rsp_status` (R100). -/
def Status.code : Status → BitVec 4
  | .ok => 0 | .unsupportedBrand => 1 | .notBound => 2 | .illegalOp => 3

/-- A response (R100). -/
structure Response where
  status : Status
  data   : Word
  deriving DecidableEq, Repr

/-- One sample of the input signals (spec/20_memory.md R61): what the platform, the caller and the pulse consumer drive
during one step (log 5). -/
structure PortInput where
  rst        : Bool
  cmdValid   : Bool
  cmdWord    : Word
  pulseReady : Bool
  deriving DecidableEq, Repr

/-- No step of this machine faults: the block has no fault (spec/60_exceptions.md R415, R422), and its one exception and its
two port refusals are responses, so next states. -/
inductive Fault where
  deriving DecidableEq, Repr

/-- The reasons for which the model has no meaning for an instruction. -/
inductive Refusal where
  /-- Raised by an arm of `exec` for an instruction that has no meaning yet. Safe: nothing can be concluded from it. No arm
  raises it. -/
  | notModelled (mnemonic : String)
  deriving DecidableEq, Repr

/-- One encoder instance (R20), and the two model fields that hold its ports as data. -/
structure State where
  /-- BOUND, BRAND, VARIANT and PS (R22, R23): `none` is `BOUND = 0`, and then BRAND and VARIANT are 0 and PS holds no
  value (R36). -/
  facade  : Option Facade
  /-- ERR (R26). -/
  err     : Bool
  /-- ERR_INFO (R26; log 15). -/
  errInfo : BitVec 32
  /-- DIAG (R25). -/
  diag    : Diag
  /-- SEQ (R31). -/
  seq     : BitVec 32
  /-- CMD (R21); no value outside an operation (R41; log 11). -/
  cmd     : Option Latch
  /-- NORM (R30); no value outside a GENERATE (R41; log 11). -/
  norm    : Option NormCmd
  /-- FB (R28); no value outside a GENERATE (R41; log 11). -/
  fb      : Option (List Frame)
  /-- PQ (R29), whole from the acceptance of the GENERATE to the taking of its last duration. -/
  pq      : List Dur
  /-- CUR (R27), an index into `pq`. -/
  cur     : Nat
  /-- The model's own: the response port as the last step left it, `none` while rsp_valid is low (spec/20_memory.md R61;
  log 6). -/
  rsp     : Option Response
  /-- The model's own: what will be driven on the input signals, one sample a step; nothing when the list is empty
  (log 5). -/
  inputs  : List PortInput
  deriving DecidableEq, Repr

/-- The state after reset (R36). -/
def State.reset : State :=
  { facade := none, err := false, errInfo := 0, diag := .zero, seq := 0, cmd := none, norm := none, fb := none
    pq := [], cur := 0, rsp := none, inputs := [] }

end Sys2Proof.Machine
end

