-- ==== Sys2Proof/Machine/Operands.lean ====
section
/-! DEFINITION. The operands of the commands: enumeration codes (spec/30_encoding.md R94 to R98, R101), the Registry and the
descriptor of a binding (spec/40_facade_ops.md R141, R142), normalisation (R148 to R151) and the view a builder is given
(R154). -/

namespace Sys2Proof

/-- Mode codes (R94). -/
def Mode.code : Mode → BitVec 4
  | .off => 0 | .heat => 1 | .cool => 2 | .dry => 3 | .fanOnly => 4 | .auto => 5 | .heatCool => 6

/-- The mode of a code; codes 7 to 15 are unrecognised (R94, R105). -/
def Mode.ofCode (m : BitVec 4) : Option Mode :=
  match m.toNat with
  | 0 => some .off
  | 1 => some .heat
  | 2 => some .cool
  | 3 => some .dry
  | 4 => some .fanOnly
  | 5 => some .auto
  | 6 => some .heatCool
  | _ => none

/-- FanSpeed codes (R95). -/
def FanSpeed.code : FanSpeed → BitVec 4
  | .auto => 0 | .low => 1 | .medium => 2 | .high => 3 | .quiet => 4

/-- The fan speed of a code; codes 5 to 15 are unrecognised (R95, R105). -/
def FanSpeed.ofCode (f : BitVec 4) : Option FanSpeed :=
  match f.toNat with
  | 0 => some .auto
  | 1 => some .low
  | 2 => some .medium
  | 3 => some .high
  | 4 => some .quiet
  | _ => none

/-- SwingSetting codes (R96). -/
def SwingSetting.code : SwingSetting → BitVec 4
  | .off => 0 | .vertical => 1 | .horizontal => 2 | .both => 3

/-- The swing setting of a code; codes 4 to 15 are unrecognised (R96, R105). -/
def SwingSetting.ofCode (s : BitVec 4) : Option SwingSetting :=
  match s.toNat with
  | 0 => some .off
  | 1 => some .vertical
  | 2 => some .horizontal
  | 3 => some .both
  | _ => none

/-- Brand codes (R97). -/
def Brand.code : Brand → BitVec 8
  | .lg => 0 | .daikin => 1 | .mitsubishi => 2 | .toshiba => 3 | .midea => 4 | .gree => 5 | .fujitsu => 6 | .tcl => 7
  | .ballu => 8 | .coolix => 9 | .hitachi => 10 | .whirlpool => 11 | .whynter => 12 | .yashima => 13 | .nec => 14

/-- The brand of a code; codes 15 to 255 name no brand (R97, R106). -/
def Brand.ofCode (b : BitVec 8) : Option Brand :=
  match b.toNat with
  | 0 => some .lg
  | 1 => some .daikin
  | 2 => some .mitsubishi
  | 3 => some .toshiba
  | 4 => some .midea
  | 5 => some .gree
  | 6 => some .fujitsu
  | 7 => some .tcl
  | 8 => some .ballu
  | 9 => some .coolix
  | 10 => some .hitachi
  | 11 => some .whirlpool
  | 12 => some .whynter
  | 13 => some .yashima
  | 14 => some .nec
  | _ => none

/-- How many variants a brand has; their codes are 0, 1, ... (R98). -/
def Brand.variants : Brand → Nat
  | .toshiba => Machine.toshibaVariants
  | .gree => Machine.greeVariants
  | _ => 1

/-- `effective_variant(brand, v)` (R142): 0 for an unknown or absent variant. -/
def effectiveVariant (b : Brand) (v : BitVec 4) : BitVec 4 :=
  if v.toNat < b.variants then v else 0

/-- The target of a brand with a variant code (R98, R107). -/
def Target.of (b : Brand) (v : BitVec 4) : Target :=
  match b with
  | .lg => .lg
  | .daikin => .daikin
  | .mitsubishi => .mitsubishi
  | .toshiba =>
    match v.toNat with
    | 1 => .toshibaRas2819t
    | 2 => .toshibaRacPt1411hwru
    | _ => .toshibaGeneric
  | .midea => .midea
  | .gree => .gree (if h : v.toNat < 7 then ⟨v.toNat, h⟩ else 0)
  | .fujitsu => .fujitsu
  | .tcl => .tcl
  | .ballu => .ballu
  | .coolix => .coolix
  | .hitachi => .hitachi
  | .whirlpool => .whirlpool
  | .whynter => .whynter
  | .yashima => .yashima
  | .nec => .nec

/-- The brand of a target: BRAND as a name. -/
def Target.brand : Target → Brand
  | .lg => .lg
  | .daikin => .daikin
  | .mitsubishi => .mitsubishi
  | .toshibaGeneric => .toshiba
  | .toshibaRas2819t => .toshiba
  | .toshibaRacPt1411hwru => .toshiba
  | .midea => .midea
  | .gree _ => .gree
  | .fujitsu => .fujitsu
  | .tcl => .tcl
  | .ballu => .ballu
  | .coolix => .coolix
  | .hitachi => .hitachi
  | .whirlpool => .whirlpool
  | .whynter => .whynter
  | .yashima => .yashima
  | .nec => .nec

/-- The effective variant code of a target: VARIANT (R22, R98). -/
def Target.variant : Target → BitVec 4
  | .toshibaRas2819t => 1
  | .toshibaRacPt1411hwru => 2
  | .gree model => BitVec.ofNat 4 model.val
  | _ => 0

/-- The 23 bindings there are: every brand with every variant code it has (R97, R98). -/
def Target.all : List Target :=
  [.lg, .daikin, .mitsubishi, .toshibaGeneric, .toshibaRas2819t, .toshibaRacPt1411hwru, .midea, .gree 0, .gree 1, .gree 2,
   .gree 3, .gree 4, .gree 5, .gree 6, .fujitsu, .tcl, .ballu, .coolix, .hitachi, .whirlpool, .whynter, .yashima, .nec]

/-- `Registry(code)` (R141): the lookup is by exact code, with no nearest match and no fallback brand. -/
def registry (c : Configuration) (code : BitVec 8) : Option Brand :=
  match Brand.ofCode code with
  | some b => if c.registered b then some b else none
  | none => none

/-- `Desc(BRAND, VARIANT)` (R141). -/
def Configuration.desc (c : Configuration) : Target → Descriptor
  | .lg => c.lg.base
  | .daikin => c.daikin.base
  | .mitsubishi => c.mitsubishi.base
  | .toshibaGeneric => c.toshibaGeneric.base
  | .toshibaRas2819t => c.ras2819t.base
  | .toshibaRacPt1411hwru => c.racPt.base
  | .midea => c.midea.base
  | .gree model => (c.gree model).base
  | .fujitsu => c.fujitsu.base
  | .tcl => c.tcl.base
  | .ballu => c.ballu.base
  | .coolix => c.coolix.base
  | .hitachi => c.hitachi.base
  | .whirlpool => c.whirlpool.base
  | .whynter => c.whynter.base
  | .yashima => c.yashima.base
  | .nec => c.nec.base

namespace Machine

/-- The mode that an operand names, when the brand supports it (R148). -/
def acceptedMode (d : Descriptor) (m : BitVec 4) : Option Mode := (Mode.ofCode m).filter d.supportedModes

/-- The fan speed that an operand names, when the brand supports it (R149). -/
def acceptedFan (d : Descriptor) (f : BitVec 4) : Option FanSpeed := (FanSpeed.ofCode f).filter d.supportedFans

/-- The swing setting that an operand names, when the brand supports it (R150). -/
def acceptedSwing (d : Descriptor) (s : BitVec 4) : Option SwingSetting :=
  (SwingSetting.ofCode s).filter d.supportedSwings

/-- `norm_mode` (R148). -/
def normMode (d : Descriptor) (m : BitVec 4) : Mode := (acceptedMode d m).getD d.defaultMode

/-- `norm_fan` (R149). -/
def normFan (d : Descriptor) (f : BitVec 4) : FanSpeed := (acceptedFan d f).getD d.defaultFan

/-- `norm_swing` (R150). -/
def normSwing (d : Descriptor) (s : BitVec 4) : SwingSetting := (acceptedSwing d s).getD .off

/-- `sext_16(CMD.temp)` (R101, R151). -/
def halfDegrees (cmd : ClimateCommand) : Int := cmd.temp.toInt

/-- `min(max(t, temp_min), temp_max)` (R151). -/
def clampTemp (d : Descriptor) (t : Int) : Int := min (max t d.tempMin) d.tempMax

/-- The half degree dropped for a whole-degree brand (R151). -/
def quantise (d : Descriptor) (tc : Int) : Int :=
  match d.tempStep with
  | .half => tc
  | .whole => 2 * floorHalf tc

/-- `norm_temp` (R151): clamp, then quantise. -/
def normTemp (d : Descriptor) (t : Int) : Int := quantise d (clampTemp d t)

/-- `normalise(b, CMD)` (R147, R148 to R151). -/
def normalise (d : Descriptor) (cmd : ClimateCommand) : NormCmd :=
  { mode := normMode d cmd.mode, temp := normTemp d (halfDegrees cmd), fan := normFan d cmd.fan
    swing := normSwing d cmd.swing }

/-- `want_swing` (R255, R352). -/
def wantSwing (n : NormCmd) : Bool := decide (n.swing ≠ .off)

/-- `powered_on` (R255, R362). -/
def poweredOn (n : NormCmd) : Bool := decide (n.mode ≠ .off)

/-- `ps_view(PS, VARIANT)` (R154). -/
def Facade.view (fa : Facade) : PsView :=
  { assumedPowerOn := fa.ps.assumedPowerOn, assumedSwingOn := fa.ps.assumedSwingOn, previous := fa.ps.previous
    modeTransitionBits := fa.ps.modeTransitionBits, modelVariant := fa.target.variant }

/-- The target bound, `none` while BOUND = 0: what the decoder of GENERATE reads (R107). -/
def State.binding (s : State) : Option Target := s.facade.map Facade.target

end Machine

end Sys2Proof
end

