-- ==== Sys2Proof/Machine/Flags.lean ====
section
/-! DEFINITION. The flags and the values that a caller can read: DIAG (spec/40_facade_ops.md R152), the flag part of the PS
update (R153), STATUS, BINDING, PS_FLAGS, ERR_INFO and the capability masks (spec/10_state.md R24 to R26, R37, R38, R40). The
block has no arithmetic condition codes (R40). -/

namespace Sys2Proof.Machine

/-- DIAG of a GENERATE (R152). -/
def diagnose (d : Descriptor) (cmd : ClimateCommand) : Diag :=
  { clamped := decide (halfDegrees cmd < d.tempMin ∨ d.tempMax < halfDegrees cmd)
    defaulted := decide (acceptedMode d cmd.mode = none ∨ acceptedFan d cmd.fan = none)
    ignored := decide (cmd.swing ≠ 0 ∧ normSwing d cmd.swing = .off) }

/-- A flag as bit `i` of a word. -/
def flagAt (i : Nat) (b : Bool) : Word := if b then 1#32 <<< i else 0

/-- DIAG as the three bits 0 CLAMPED, 1 DEFAULTED, 2 IGNORED (R25). -/
def Diag.bits (d : Diag) : Word := flagAt 0 d.clamped ||| flagAt 1 d.defaulted ||| flagAt 2 d.ignored

/-- BOUND (R22). -/
def State.boundBit (s : State) : Bool := s.facade.isSome

/-- BRAND (R22): 0 while unbound (R36). -/
def State.brandReg (s : State) : BitVec 8 :=
  match s.facade with
  | none => 0
  | some fa => fa.target.brand.code

/-- VARIANT (R22): 0 while unbound (R36). -/
def State.variantReg (s : State) : BitVec 4 :=
  match s.facade with
  | none => 0
  | some fa => fa.target.variant

/-- STATUS (R24). -/
def State.statusWord (s : State) : Word := flagAt 0 s.boundBit ||| flagAt 1 s.err ||| (s.diag.bits <<< 2)

/-- A variant code above a brand code: the layout of BINDING (R37) and of ERR_INFO (R26). -/
def brandVariantWord (brand : BitVec 8) (variant : BitVec 4) : Word :=
  (variant.setWidth 32 <<< 8) ||| brand.setWidth 32

/-- BINDING (R37): 0 when unbound. -/
def State.bindingWord (s : State) : Word := brandVariantWord s.brandReg s.variantReg

/-- PS_FLAGS (R37). -/
def ProtocolState.flags (ps : ProtocolState) : Word :=
  flagAt 0 ps.assumedPowerOn ||| flagAt 1 ps.assumedSwingOn ||| flagAt 2 ps.previous.isSome

/-- PREV_TEMP (R37): 0 while prev_valid = 0. -/
def ProtocolState.prevTempWord (ps : ProtocolState) : Word :=
  match ps.previous with
  | none => 0
  | some p => p.temperature.setWidth 32

/-- PREV_MODE (R37): 0 while prev_valid = 0. -/
def ProtocolState.prevModeWord (ps : ProtocolState) : Word :=
  match ps.previous with
  | none => 0
  | some p => p.mode.code.setWidth 32

/-- TEMP_STEP (R37, R162). -/
def stepWord : TempStep → Word
  | .half => 1
  | .whole => 2

/-- SUPPORTED_MODES (R37, R163): bit `i` is the mode of code `i`. -/
def modesMask (p : Mode → Bool) : Word :=
  flagAt 0 (p .off) ||| flagAt 1 (p .heat) ||| flagAt 2 (p .cool) ||| flagAt 3 (p .dry) ||| flagAt 4 (p .fanOnly)
    ||| flagAt 5 (p .auto) ||| flagAt 6 (p .heatCool)

/-- SUPPORTED_FANS (R37, R164). -/
def fansMask (p : FanSpeed → Bool) : Word :=
  flagAt 0 (p .auto) ||| flagAt 1 (p .low) ||| flagAt 2 (p .medium) ||| flagAt 3 (p .high) ||| flagAt 4 (p .quiet)

/-- SUPPORTED_SWINGS (R37, R165). -/
def swingsMask (p : SwingSetting → Bool) : Word :=
  flagAt 0 (p .off) ||| flagAt 1 (p .vertical) ||| flagAt 2 (p .horizontal) ||| flagAt 3 (p .both)

/-- BRAND_LIST (R37, R166). -/
def brandsMask (p : Brand → Bool) : Word :=
  flagAt 0 (p .lg) ||| flagAt 1 (p .daikin) ||| flagAt 2 (p .mitsubishi) ||| flagAt 3 (p .toshiba) ||| flagAt 4 (p .midea)
    ||| flagAt 5 (p .gree) ||| flagAt 6 (p .fujitsu) ||| flagAt 7 (p .tcl) ||| flagAt 8 (p .ballu) ||| flagAt 9 (p .coolix)
    ||| flagAt 10 (p .hitachi) ||| flagAt 11 (p .whirlpool) ||| flagAt 12 (p .whynter) ||| flagAt 13 (p .yashima)
    ||| flagAt 14 (p .nec)

/-- PS right after a RESOLVE that ends OK (R35). -/
def ProtocolState.fresh : ProtocolState :=
  { assumedPowerOn := false, assumedSwingOn := false, previous := none, modeTransitionBits := 0 }

/-- `update(b, NORM, view)` (R153). The temperature is stored in its 16-bit register (log 37). -/
def ProtocolState.update (d : Descriptor) (n : NormCmd) (v : PsView) : ProtocolState :=
  { assumedPowerOn := poweredOn n, assumedSwingOn := wantSwing n
    previous := some { temperature := BitVec.ofInt 16 n.temp, mode := n.mode }
    modeTransitionBits := d.mtbNext n v }

end Sys2Proof.Machine
end

