-- ==== Sys2Proof/Machine/Serializer.lean ====
section
/-! DEFINITION. The pulse encoding primitives (spec/41_pulse_primitives.md R190 to R206): segments, plans and the mark/space
serializer. The serializer first writes each duration with its kind; the PulseSequence is the durations alone, the kind of an
element then being its index parity (R201). -/

namespace Sys2Proof.Machine

/-- Mark (carrier on) or space (carrier off) (spec/00_scope.md section 9). -/
inductive PulseKind where
  | mark | space
  deriving DecidableEq, Repr

/-- A duration with its kind. -/
structure Pulse where
  kind : PulseKind
  dur  : Dur
  deriving DecidableEq, Repr

/-- The header pair, if the segment has one (R194). -/
def headerPulses (h : Option (Dur × Dur)) : List Pulse :=
  match h with
  | none => []
  | some (hm, hs) => [⟨.mark, hm⟩, ⟨.space, hs⟩]

/-- One bit: a mark of fixed length and a space that tells the bit (R191, R194). -/
def bitPulses (tp : TimingProfile) (b : Bool) : List Pulse :=
  [⟨.mark, tp.bitMark⟩, ⟨.space, if b then tp.oneSpace else tp.zeroSpace⟩]

/-- The tail (R192, R194). -/
def tailPulses (t : Trailer) : List Pulse :=
  match t with
  | .none => []
  | .mark m => [⟨.mark, m⟩]
  | .markGap m g => [⟨.mark, m⟩, ⟨.space, g⟩]

/-- One segment with kinds (R194). -/
def segPulses (tp : TimingProfile) (s : Segment) : List Pulse :=
  headerPulses s.hdr ++ s.bits.flatMap (bitPulses tp) ++ tailPulses s.tail

/-- A plan with kinds (R196). -/
def planPulses (tp : TimingProfile) (p : Plan) : List Pulse := p.flatMap (segPulses tp)

/-- `ser_seg(tp, s)` (R194). -/
def serSeg (tp : TimingProfile) (s : Segment) : List Dur := (segPulses tp s).map Pulse.dur

/-- `ser(tp, plan)` (R196). -/
def ser (tp : TimingProfile) (p : Plan) : List Dur := (planPulses tp p).map Pulse.dur

/-- The header pair of a descriptor's profile. -/
def header (d : Descriptor) : Option (Dur × Dur) := some (d.timing.headerMark, d.timing.headerSpace)

/-- `plan_single(b, F)` (R197). -/
def planSingle (d : Descriptor) (f : Frame) : Plan :=
  [{ hdr := header d, bits := frameBits d.bitOrder f, tail := d.timing.trailer }]

/-- `plan_blocks(b, [F0 .. Fk-1])` (R198): every block has its own header; all but the last end with the inter-block gap. -/
def planBlocks (d : Descriptor) : List Frame → Plan
  | [] => []
  | [f] => planSingle d f
  | f :: g :: rest =>
    { hdr := header d, bits := frameBits d.bitOrder f, tail := .markGap d.plan.blockMark d.plan.blockGap }
      :: planBlocks d (g :: rest)

/-- The byte ranges `[0, c1), [c1, c2), ..., [cm, len)` of a frame (R199), `done` being the count already cut off. -/
def cutAt (done : Nat) (counts : List Nat) (bs : List Byte) : List (List Byte) :=
  match counts with
  | [] => [bs]
  | c :: rest => bs.take (c - done) :: cutAt c rest (bs.drop (c - done))

/-- The segments over byte ranges (R199): the first has `h` as header, the others none; all but the last end with the
divider. -/
def splitSegments (d : Descriptor) (h : Option (Dur × Dur)) : List (List Byte) → Plan
  | [] => []
  | [bs] => [{ hdr := h, bits := bitsOfBytes d.bitOrder bs, tail := d.timing.trailer }]
  | bs :: cs :: rest =>
    { hdr := h, bits := bitsOfBytes d.bitOrder bs, tail := .markGap d.plan.divMark d.plan.divGap }
      :: splitSegments d none (cs :: rest)

/-- `plan_split(b, F)` (R199). -/
def planSplit (d : Descriptor) (f : List Byte) : Plan :=
  splitSegments d (header d) (cutAt 0 d.plan.splits f)

/-- A plan with the tail of its last segment replaced (R200). -/
def setLastTail (t : Trailer) : Plan → Plan
  | [] => []
  | [s] => [{ s with tail := t }]
  | s :: s' :: rest => s :: setLastTail t (s' :: rest)

/-- `plan_repeat(b, n, P)` (R200): `n` copies, the repeat gap ending every copy but the last. -/
def planRepeat (d : Descriptor) (n : Nat) (p : Plan) : Plan :=
  match n with
  | 0 => []
  | 1 => p
  | k + 2 => setLastTail (.markGap d.plan.repMark d.plan.repGap) p ++ planRepeat d (k + 1) p

/-- A segment emits at least one duration (R205 b). -/
def segmentEmits (s : Segment) : Prop := s.hdr.isSome ∨ s.bits ≠ [] ∨ s.tail ≠ .none

/-- A lone-mark tail (R205 c). -/
def isMarkTail (t : Trailer) : Bool :=
  match t with
  | .mark _ => true
  | _ => false

/-- A well-formed plan (R205): not empty, every segment emits, and a lone-mark tail stands on the last segment only. -/
def planWellFormed (p : Plan) : Prop :=
  p ≠ [] ∧ (∀ s ∈ p, segmentEmits s) ∧ (∀ s ∈ p.dropLast, isMarkTail s.tail = false)

end Sys2Proof.Machine
end

