-- ==== Sys2Proof/Machine/Ops.lean ====
section
/-! DEFINITION. The named operations over the state: the operand latch, the response, the emission cursor, taking the one
exception and clearing its record, and the stages of GENERATE that all brands share (spec/40_facade_ops.md R147). The block
has no memory to operate on (spec/20_memory.md R60, R69). -/

namespace Sys2Proof.Machine

/-! ### The operand latch and the response -/

/-- Command acceptance loads the operands into CMD (R21, R91 to R93). -/
def State.load (l : Latch) (s : State) : State := { s with cmd := some l }

/-- `return (status, data)` (R12, R100): the response is produced and the operation ends, so CMD, NORM and FB hold no value
any more (R21, R28, R30, R41). -/
def State.answer (st : Status) (data : Word) (s : State) : State :=
  { s with rsp := some { status := st, data := data }, cmd := none, norm := none, fb := none }

/-! ### The exception (spec/60_exceptions.md) -/

/-- Taking UnsupportedBrand, whole (R410, R414, R416): ERR and ERR_INFO are written and the response carries status 1. There
is no handler: nothing is saved, no mode changes, nothing is vectored. -/
def State.raiseUnsupportedBrand (brand : BitVec 8) (variant : BitVec 4) (s : State) : State :=
  { s with err := true, errInfo := brandVariantWord brand variant }.answer .unsupportedBrand
    (brandVariantWord brand variant)

/-- The end of the exception's record (R26, R417): there is no return operation; a RESOLVE that ends OK, RELEASE and reset
clear it. -/
def State.clearError (s : State) : State := { s with err := false, errInfo := 0 }

/-- NOT_BOUND (R146, R413): no state changes. -/
def State.refuseNotBound (s : State) : State := s.answer .notBound 0

/-- ILLEGAL_OP (R102, R104, R413): no state changes. -/
def State.refuseIllegalOp (s : State) : State := s.answer .illegalOp 0

/-! ### Façade construction and destruction -/

/-- The state writes of a RESOLVE that ends OK (R35, R140): every register at its fresh value. -/
def State.construct (t : Target) (s : State) : State :=
  { s.clearError with
    facade := some { target := t, ps := ProtocolState.fresh }, diag := .zero, seq := 0, pq := [], cur := 0 }

/-- The state writes of RELEASE (R145), which leave the instance as reset leaves it; so also PQ and CUR, which R145 does not
list (R36; log 13). -/
def State.destroy (s : State) : State :=
  { s.clearError with facade := none, diag := .zero, seq := 0, pq := [], cur := 0 }

/-! ### The longest sequence (spec/41_pulse_primitives.md R203) -/

/-- The most durations of one copy of a message: two for each bit of the most and longest frames, and two for each of their
headers and tails (R203). -/
def durationsPerCopy : Nat := 2 * (framesMax * frameLenMax * 8) + 2 * framesMax + 2 * framesMax

/-- `copies_max`: the largest `b.plan.copies` of a registered brand (R203). -/
def copiesMax (c : Configuration) : Nat :=
  ((Target.all.filter fun t => c.registered t.brand).map fun t => (c.desc t).plan.copies).foldr max 0

/-- `PS_MAX`, the length of the longest sequence the configuration can produce (R203). CUR and the length of PQ never exceed
it (`State.boundedOk`), so its width is CUR's (spec/10_state.md R27). -/
def psMax (c : Configuration) : Nat := copiesMax c * durationsPerCopy

/-! ### The emission cursor (spec/10_state.md R27, spec/20_memory.md R61, R64) -/

/-- `pulse_valid`: a duration is offered. -/
def State.pulseValid (s : State) : Bool := decide (s.cur < s.pq.length)

/-- `pulse_dur`: the duration offered, `PQ[CUR]`; nothing while none is offered. -/
def State.pulseDur (s : State) : Option Dur := s.pq[s.cur]?

/-- `pulse_is_mark`: the index is even (R64). -/
def State.pulseIsMark (s : State) : Bool := decide (s.cur % 2 = 0)

/-- `pulse_last`: the last element is offered (R64). -/
def State.pulseLast (s : State) : Bool := decide (s.cur + 1 = s.pq.length)

/-- `cmd_ready` (R70): the last duration has been taken. The response of a command is produced in the step that accepts it
(log 7). -/
def State.cmdReady (s : State) : Bool := !s.pulseValid

/-- One duration is taken (R27): CUR advances by 1; when it reaches the end, PQ is emptied, and CUR goes back to 0
(log 12). -/
def State.take (s : State) : State :=
  if s.cur + 1 < s.pq.length then { s with cur := s.cur + 1 } else { s with pq := [], cur := 0 }

/-! ### The stages of GENERATE (spec/40_facade_ops.md R147) -/

/-- Stage 1, normalise (R148 to R152): NORM and DIAG. -/
def State.normaliseStage (d : Descriptor) (cmd : ClimateCommand) (s : State) : State :=
  { s with norm := some (normalise d cmd), diag := diagnose d cmd }

/-- Stage 2, the frames the builder forms (R28, R250): FB. -/
def State.buildStage (b : Built) (s : State) : State := { s with fb := some b.frames }

/-- Stage 3, serialise (R196): PQ, and CUR at its start. -/
def State.emitStage (d : Descriptor) (b : Built) (s : State) : State := { s with pq := ser d.timing b.plan, cur := 0 }

/-- Stage 4, the state update (R153): PS and SEQ. VARIANT, and BRAND with it, stay. -/
def State.updateStage (d : Descriptor) (fa : Facade) (n : NormCmd) (s : State) : State :=
  { s with facade := some { fa with ps := ProtocolState.update d n fa.view }, seq := s.seq + 1 }

/-- A frame builder as a parameter (R250): what it makes of a normalised command and the view of the state before. -/
abbrev Builder := NormCmd → PsView → Built

/-- GENERATE (R146, R147, R155) with the builder of one brand. Unbound it answers NOT_BOUND. -/
def generate (c : Configuration) (build : Builder) (cmd : ClimateCommand) (s : State) : State :=
  match s.facade with
  | none => s.refuseNotBound
  | some fa =>
    let d := c.desc fa.target
    let n := normalise d cmd
    let b := build n fa.view
    ((((s.load (.generate cmd)).normaliseStage d cmd).buildStage b).emitStage d b).updateStage d fa n
      |>.answer .ok (BitVec.ofNat 32 (ser d.timing b.plan).length)

/-! ### QUERY (spec/40_facade_ops.md R160 to R168) -/

/-- A QUERY that works bound or unbound (R166, R167). -/
def queryAlways (sel : BitVec 4) (value : State → Word) (s : State) : State :=
  (s.load (.query sel)).answer .ok (value s)

/-- A QUERY that needs a binding (R146, R160 to R165, R168). -/
def queryBound (sel : BitVec 4) (value : Facade → Word) (s : State) : State :=
  match s.facade with
  | none => s.refuseNotBound
  | some fa => (s.load (.query sel)).answer .ok (value fa)

end Sys2Proof.Machine
end

