-- ==== Sys2Proof/Machine/ByteArray.lean ====
section
/-! DEFINITION. GENERATE for the byte-array family: Ballu, TCL, Mitsubishi, Midea, Gree, Fujitsu, NEC
(spec/45_brands_byte_array.md). Where a rule writes `F[n-1] <- checksum(...)` it means `finish` (spec/42_checksum_tables.md
R237). -/

namespace Sys2Proof.Machine

/-! ### Ballu -/

/-- Ballu's frame (R300): the fixed header byte, then the checksum. -/
def balluFrame (c : Configuration) (n : NormCmd) (v : PsView) : List Byte :=
  finish c.ballu.base ((c.ballu.ctrl n v).set 0 balluHdr0)

/-- `build_BALLU` (R300). -/
def buildBallu (c : Configuration) (n : NormCmd) (v : PsView) : Built :=
  let f := Frame.bytes (balluFrame c n v)
  { frames := [f], plan := planSingle c.ballu.base f }

/-- GENERATE.BALLU (R300). -/
def execGenerateBallu (cmd : ClimateCommand) (s : State) : Host.Outcome State Fault Refusal :=
  .next (generate theConfig (buildBallu theConfig) cmd s)

/-! ### TCL -/

/-- TCL's two temperature fields (R305): the degrees below the maximum, and the half-degree flag. -/
def putTclTemp (n : NormCmd) (f : List Byte) : List Byte :=
  put (put f tclTempByte 0 tclTempMask (byteOf (tclTempMax - floorHalf n.temp)))
    tclHalfByte tclHalfShift 1 (byteOf (half n.temp))

/-- TCL's frame (R305, R259 f). -/
def tclFrame (c : Configuration) (n : NormCmd) (v : PsView) : List Byte :=
  let f := c.tcl.ctrl n v
  finish c.tcl.base (if c.tcl.base.tempModes n.mode then putTclTemp n f else f)

/-- `build_TCL` (R305). -/
def buildTcl (c : Configuration) (n : NormCmd) (v : PsView) : Built :=
  let f := Frame.bytes (tclFrame c n v)
  { frames := [f], plan := planSingle c.tcl.base f }

/-- GENERATE.TCL (R305). -/
def execGenerateTcl (cmd : ClimateCommand) (s : State) : Host.Outcome State Fault Refusal :=
  .next (generate theConfig (buildTcl theConfig) cmd s)

/-! ### Mitsubishi -/

/-- Mitsubishi's frame (R310). -/
def mitsubishiFrame (c : Configuration) (n : NormCmd) (v : PsView) : List Byte :=
  finish c.mitsubishi.base (c.mitsubishi.ctrl n v)

/-- `build_MITSUBISHI` (R310): the message is sent twice. -/
def buildMitsubishi (c : Configuration) (n : NormCmd) (v : PsView) : Built :=
  let f := Frame.bytes (mitsubishiFrame c n v)
  { frames := [f], plan := planRepeat c.mitsubishi.base mitsubishiCopies (planSingle c.mitsubishi.base f) }

/-- GENERATE.MITSUBISHI (R310). -/
def execGenerateMitsubishi (cmd : ClimateCommand) (s : State) : Host.Outcome State Fault Refusal :=
  .next (generate theConfig (buildMitsubishi theConfig) cmd s)

/-! ### Midea -/

/-- Midea's frame (R315). -/
def mideaFrame (c : Configuration) (n : NormCmd) (v : PsView) : List Byte :=
  finish c.midea.base (c.midea.ctrl n v)

/-- `build_MIDEA` (R315). -/
def buildMidea (c : Configuration) (n : NormCmd) (v : PsView) : Built :=
  let f := Frame.bytes (mideaFrame c n v)
  { frames := [f], plan := planSingle c.midea.base f }

/-- GENERATE.MIDEA (R315). -/
def execGenerateMidea (cmd : ClimateCommand) (s : State) : Host.Outcome State Fault Refusal :=
  .next (generate theConfig (buildMidea theConfig) cmd s)

/-! ### Gree -/

/-- The Gree model of `view.model_variant` (R320). The variant of a Gree binding is 0 to 6 (R98). -/
def greeModel (c : Configuration) (v : PsView) : GreeModel :=
  c.gree (if h : v.modelVariant.toNat < 7 then ⟨v.modelVariant.toNat, h⟩ else 0)

/-- The frame of one Gree model (R320): the checksum is stored where that model's contract says (R226). -/
def greeFrame (g : GreeModel) (n : NormCmd) (v : PsView) : List Byte :=
  let f := g.ctrl n v
  g.store f (g.checksum f)

/-- The emission plan of one Gree model, a parameter whose default is `plan_single` with one copy (R321; log 16). -/
def greePlan (g : GreeModel) (f : List Byte) : Plan :=
  planRepeat g.base g.base.plan.copies
    (match g.emission with
     | .single => planSingle g.base (.bytes f)
     | .split => planSplit g.base f)

/-- `build_GREE` (R320). -/
def buildGree (c : Configuration) (n : NormCmd) (v : PsView) : Built :=
  let g := greeModel c v
  let f := greeFrame g n v
  { frames := [.bytes f], plan := greePlan g f }

/-- GENERATE.GREE (R320). -/
def execGenerateGree (cmd : ClimateCommand) (s : State) : Host.Outcome State Fault Refusal :=
  .next (generate theConfig (buildGree theConfig) cmd s)

/-! ### Fujitsu -/

/-- Fujitsu's frame (R325). -/
def fujitsuFrame (c : Configuration) (n : NormCmd) (v : PsView) : List Byte :=
  finish c.fujitsu.base (c.fujitsu.ctrl n v)

/-- `build_FUJITSU` (R325). -/
def buildFujitsu (c : Configuration) (n : NormCmd) (v : PsView) : Built :=
  let f := Frame.bytes (fujitsuFrame c n v)
  { frames := [f], plan := planSingle c.fujitsu.base f }

/-- GENERATE.FUJITSU (R325). -/
def execGenerateFujitsu (cmd : ClimateCommand) (s : State) : Host.Outcome State Fault Refusal :=
  .next (generate theConfig (buildFujitsu theConfig) cmd s)

/-! ### NEC -/

/-- NEC's frame (R330). -/
def necFrame (c : Configuration) (n : NormCmd) (v : PsView) : List Byte :=
  finish c.nec.base (c.nec.ctrl n v)

/-- `build_NEC` (R330). -/
def buildNec (c : Configuration) (n : NormCmd) (v : PsView) : Built :=
  let f := Frame.bytes (necFrame c n v)
  { frames := [f], plan := planSingle c.nec.base f }

/-- GENERATE.NEC (R330). -/
def execGenerateNec (cmd : ClimateCommand) (s : State) : Host.Outcome State Fault Refusal :=
  .next (generate theConfig (buildNec theConfig) cmd s)

end Sys2Proof.Machine
end

