-- ==== Sys2Proof/Machine/Facade.lean ====
section
/-! DEFINITION. The façade operations RESOLVE and RELEASE, and GENERATE on an unbound instance (spec/40_facade_ops.md R140 to
R146). -/

namespace Sys2Proof.Machine

/-- RESOLVE over a configuration (R140 to R144): UnsupportedBrand when the Registry has no entry, else a fresh façade with
the effective variant, and BINDING as the datum. -/
def resolve (c : Configuration) (brand : BitVec 8) (variant : BitVec 4) (s : State) : State :=
  let s := s.load (.resolve brand variant)
  match registry c brand with
  | none => s.raiseUnsupportedBrand brand variant
  | some b =>
    let v := effectiveVariant b variant
    (s.construct (Target.of b v)).answer .ok (brandVariantWord brand v)

/-- RESOLVE (R140). -/
def execResolve (brand : BitVec 8) (variant : BitVec 4) (s : State) : Host.Outcome State Fault Refusal :=
  .next (resolve theConfig brand variant s)

/-- RELEASE (R145), bound or not. -/
def execRelease (s : State) : Host.Outcome State Fault Refusal := .next (s.destroy.answer .ok 0)

/-- GENERATE while BOUND = 0 (R146): NOT_BOUND. -/
def execGenerateUnbound (_cmd : ClimateCommand) (s : State) : Host.Outcome State Fault Refusal := .next s.refuseNotBound

end Sys2Proof.Machine
end

