-- ==== Sys2Proof/Machine/FlatWord.lean ====
section
/-! DEFINITION. GENERATE for the flat bit-packed word family: LG, Whynter, Yashima (spec/44_brands_flat_word.md), and the
lookup-table step that Coolix and Toshiba RAC_PT1411HWRU share with Yashima (spec/43_frame_families.md R254). -/

namespace Sys2Proof.Machine

/-- The LookupTemp step (R230, R254, R259 f): the table entry goes into its field in the modes that carry the temperature. -/
def putTemp (d : Descriptor) (t : TempTable) (n : NormCmd) (f : List Byte) : List Byte :=
  if d.tempModes n.mode then putField f t.field (tempCode t.entries d.tempMin n.temp) else f

/-! ### LG -/

/-- LG's word before the checksum: `w1` of R270. -/
def lgWord (c : Configuration) (n : NormCmd) (v : PsView) : Word :=
  let w0 := (c.lg.ctrl n v).setWidth 32
  if c.lg.base.tempModes n.mode then
    putw w0 lgTempShift lgTempMask (BitVec.ofInt 32 (floorHalf n.temp - lgTempOffset))
  else w0

/-- `build_LG` (R270): the nibble-sum goes into the empty nibble 0 (R223). -/
def buildLg (c : Configuration) (n : NormCmd) (v : PsView) : Built :=
  let w1 := lgWord c n v
  let f := Frame.word lgFrameBits (w1 ||| (nibsum w1).setWidth 32)
  { frames := [f], plan := planSingle c.lg.base f }

/-- GENERATE.LG (R270). -/
def execGenerateLg (cmd : ClimateCommand) (s : State) : Host.Outcome State Fault Refusal :=
  .next (generate theConfig (buildLg theConfig) cmd s)

/-! ### Whynter -/

/-- Each of the four bytes of a word reversed (R275). -/
def revBytes (w : Word) : Word :=
  rev8 (w.extractLsb' 24 8) ++ rev8 (w.extractLsb' 16 8) ++ rev8 (w.extractLsb' 8 8) ++ rev8 (w.extractLsb' 0 8)

/-- `build_WHYNTER` (R275). -/
def buildWhynter (c : Configuration) (n : NormCmd) (v : PsView) : Built :=
  let f := Frame.word whynterFrameBits (revBytes (c.whynter.ctrl n v))
  { frames := [f], plan := planSingle c.whynter.base f }

/-- GENERATE.WHYNTER (R275). -/
def execGenerateWhynter (cmd : ClimateCommand) (s : State) : Host.Outcome State Fault Refusal :=
  .next (generate theConfig (buildWhynter theConfig) cmd s)

/-! ### Yashima -/

/-- Yashima's frame (R280). -/
def yashimaFrame (c : Configuration) (n : NormCmd) (v : PsView) : List Byte :=
  finish c.yashima.base (putTemp c.yashima.base c.yashima.table n (c.yashima.ctrl n v))

/-- `build_YASHIMA` (R280). -/
def buildYashima (c : Configuration) (n : NormCmd) (v : PsView) : Built :=
  let f := Frame.bytes (yashimaFrame c n v)
  { frames := [f], plan := planSingle c.yashima.base f }

/-- GENERATE.YASHIMA (R280). -/
def execGenerateYashima (cmd : ClimateCommand) (s : State) : Host.Outcome State Fault Refusal :=
  .next (generate theConfig (buildYashima theConfig) cmd s)

end Sys2Proof.Machine
end

