-- ==== Sys2Proof/Machine/Query.lean ====
section
/-! DEFINITION. QUERY, one meaning per selector (spec/40_facade_ops.md R160 to R168; spec/10_state.md R37, R39). No QUERY
changes a register. -/

namespace Sys2Proof.Machine

/-- A capability of the bound descriptor (R38). -/
def capability (f : Descriptor → Word) (fa : Facade) : Word := f (theConfig.desc fa.target)

/-- QUERY 0, TEMP_MIN (R160). -/
def execQueryTemperatureMin (s : State) : Host.Outcome State Fault Refusal :=
  .next (queryBound 0 (capability fun d => BitVec.ofInt 32 d.tempMin) s)

/-- QUERY 1, TEMP_MAX (R161). -/
def execQueryTemperatureMax (s : State) : Host.Outcome State Fault Refusal :=
  .next (queryBound 1 (capability fun d => BitVec.ofInt 32 d.tempMax) s)

/-- QUERY 2, TEMP_STEP (R162). -/
def execQueryTemperatureStep (s : State) : Host.Outcome State Fault Refusal :=
  .next (queryBound 2 (capability fun d => stepWord d.tempStep) s)

/-- QUERY 3, SUPPORTED_MODES (R163). -/
def execQuerySupportedHvacModes (s : State) : Host.Outcome State Fault Refusal :=
  .next (queryBound 3 (capability fun d => modesMask d.supportedModes) s)

/-- QUERY 4, SUPPORTED_FANS (R164). -/
def execQuerySupportedFanModes (s : State) : Host.Outcome State Fault Refusal :=
  .next (queryBound 4 (capability fun d => fansMask d.supportedFans) s)

/-- QUERY 5, SUPPORTED_SWINGS (R165). -/
def execQuerySupportedSwingModes (s : State) : Host.Outcome State Fault Refusal :=
  .next (queryBound 5 (capability fun d => swingsMask d.supportedSwings) s)

/-- QUERY 6, BRAND_LIST (R166). -/
def execQueryBrandList (s : State) : Host.Outcome State Fault Refusal :=
  .next (queryAlways 6 (fun _ => brandsMask theConfig.registered) s)

/-- QUERY 7, the reserved selector (R104): ILLEGAL_OP, bound or not (R419). -/
def execQueryReservedSelector (s : State) : Host.Outcome State Fault Refusal := .next s.refuseIllegalOp

/-- QUERY 8, STATUS (R24, R167). -/
def execQueryStatus (s : State) : Host.Outcome State Fault Refusal := .next (queryAlways 8 State.statusWord s)

/-- QUERY 9, BINDING (R37, R167). -/
def execQueryBinding (s : State) : Host.Outcome State Fault Refusal := .next (queryAlways 9 State.bindingWord s)

/-- QUERY 10, PS_FLAGS (R168). -/
def execQueryPsFlags (s : State) : Host.Outcome State Fault Refusal := .next (queryBound 10 (fun fa => fa.ps.flags) s)

/-- QUERY 11, PREV_TEMP (R168). -/
def execQueryPrevTemp (s : State) : Host.Outcome State Fault Refusal :=
  .next (queryBound 11 (fun fa => fa.ps.prevTempWord) s)

/-- QUERY 12, PREV_MODE (R168). -/
def execQueryPrevMode (s : State) : Host.Outcome State Fault Refusal :=
  .next (queryBound 12 (fun fa => fa.ps.prevModeWord) s)

/-- QUERY 13, MODE_TRANS (R168). -/
def execQueryModeTrans (s : State) : Host.Outcome State Fault Refusal :=
  .next (queryBound 13 (fun fa => fa.ps.modeTransitionBits) s)

/-- QUERY 14, SEQ (R31, R168). -/
def execQuerySeq (s : State) : Host.Outcome State Fault Refusal := .next (queryBound 14 (fun _ => s.seq) s)

/-- QUERY 15, ERR_INFO (R26, R167). -/
def execQueryErrInfo (s : State) : Host.Outcome State Fault Refusal := .next (queryAlways 15 State.errInfo s)

end Sys2Proof.Machine
end

