-- ==== Sys2Proof/Machine/Reserved.lean ====
section
/-! DEFINITION. The reserved operations (spec/30_encoding.md R102): each answers ILLEGAL_OP and changes no state. -/

namespace Sys2Proof.Machine

/-- Operation code 0x0 (R102). -/
def execReservedOp0 (s : State) : Host.Outcome State Fault Refusal := .next s.refuseIllegalOp

/-- Operation code 0x5 (R102). -/
def execReservedOp5 (s : State) : Host.Outcome State Fault Refusal := .next s.refuseIllegalOp

/-- Operation code 0x6 (R102). -/
def execReservedOp6 (s : State) : Host.Outcome State Fault Refusal := .next s.refuseIllegalOp

/-- Operation code 0x7 (R102). -/
def execReservedOp7 (s : State) : Host.Outcome State Fault Refusal := .next s.refuseIllegalOp

/-- Operation code 0x8 (R102). -/
def execReservedOp8 (s : State) : Host.Outcome State Fault Refusal := .next s.refuseIllegalOp

/-- Operation code 0x9 (R102). -/
def execReservedOp9 (s : State) : Host.Outcome State Fault Refusal := .next s.refuseIllegalOp

/-- Operation code 0xA (R102). -/
def execReservedOpA (s : State) : Host.Outcome State Fault Refusal := .next s.refuseIllegalOp

/-- Operation code 0xB (R102). -/
def execReservedOpB (s : State) : Host.Outcome State Fault Refusal := .next s.refuseIllegalOp

/-- Operation code 0xC (R102). -/
def execReservedOpC (s : State) : Host.Outcome State Fault Refusal := .next s.refuseIllegalOp

/-- Operation code 0xD (R102). -/
def execReservedOpD (s : State) : Host.Outcome State Fault Refusal := .next s.refuseIllegalOp

/-- Operation code 0xE (R102). -/
def execReservedOpE (s : State) : Host.Outcome State Fault Refusal := .next s.refuseIllegalOp

/-- Operation code 0xF (R102). -/
def execReservedOpF (s : State) : Host.Outcome State Fault Refusal := .next s.refuseIllegalOp

end Sys2Proof.Machine
end

