-- ==== Sys2Proof/Machine/Toggle.lean ====
section
/-! DEFINITION. GENERATE for the stateful-toggle and multi-packet family: Coolix, Whirlpool, the three Toshiba variants,
Daikin, Hitachi (spec/46_brands_toggle_multipacket.md). A toggle is decided once, on the view of before the command (R397). -/

namespace Sys2Proof.Machine

/-! ### Coolix -/

/-- `COOLIX_NORMAL` (R351). -/
def coolixNormal (c : Configuration) (n : NormCmd) (v : PsView) : List Byte :=
  finish c.coolix.base (putTemp c.coolix.base c.coolix.table n (c.coolix.ctrl n v))

/-- Coolix's frame (R350, R352): the swing-toggle frame alone when the wanted swing differs from the assumed one. -/
def coolixFrame (c : Configuration) (n : NormCmd) (v : PsView) : List Byte :=
  if wantSwing n = v.assumedSwingOn then coolixNormal c n v else c.coolix.swingFrame

/-- `build_COOLIX` (R350). -/
def buildCoolix (c : Configuration) (n : NormCmd) (v : PsView) : Built :=
  let f := Frame.bytes (coolixFrame c n v)
  { frames := [f], plan := planSingle c.coolix.base f }

/-- GENERATE.COOLIX (R350). -/
def execGenerateCoolix (cmd : ClimateCommand) (s : State) : Host.Outcome State Fault Refusal :=
  .next (generate theConfig (buildCoolix theConfig) cmd s)

/-! ### Whirlpool -/

/-- Whirlpool's frame (R360, R362): the power-toggle field is set when the wanted power differs from the assumed one. -/
def whirlpoolFrame (c : Configuration) (n : NormCmd) (v : PsView) : List Byte :=
  let f := c.whirlpool.ctrl n v
  finish c.whirlpool.base
    (if poweredOn n = v.assumedPowerOn then f else putField f c.whirlpool.power c.whirlpool.powerValue)

/-- `build_WHIRLPOOL` (R360, R363): one message with dividers. -/
def buildWhirlpool (c : Configuration) (n : NormCmd) (v : PsView) : Built :=
  let f := whirlpoolFrame c n v
  { frames := [.bytes f], plan := planSplit c.whirlpool.base f }

/-- GENERATE.WHIRLPOOL (R360). -/
def execGenerateWhirlpool (cmd : ClimateCommand) (s : State) : Host.Outcome State Fault Refusal :=
  .next (generate theConfig (buildWhirlpool theConfig) cmd s)

/-! ### Toshiba GENERIC -/

/-- The frame of Toshiba GENERIC (R371). -/
def toshibaGenericFrame (c : Configuration) (n : NormCmd) (v : PsView) : List Byte :=
  finish c.toshibaGeneric.base (c.toshibaGeneric.ctrl n v)

/-- `build_TOSHIBA_GENERIC` (R371): one frame, sent twice. -/
def buildToshibaGeneric (c : Configuration) (n : NormCmd) (v : PsView) : Built :=
  let f := Frame.bytes (toshibaGenericFrame c n v)
  { frames := [f], plan := planRepeat c.toshibaGeneric.base toshibaCopies (planSingle c.toshibaGeneric.base f) }

/-- GENERATE.TOSHIBA.GENERIC (R371). -/
def execGenerateToshibaGeneric (cmd : ClimateCommand) (s : State) : Host.Outcome State Fault Refusal :=
  .next (generate theConfig (buildToshibaGeneric theConfig) cmd s)

/-! ### Toshiba RAS_2819T -/

/-- `RAS2819T_NORMAL` (R373): two packets. -/
def ras2819tNormal (c : Configuration) (n : NormCmd) (v : PsView) : List (List Byte) :=
  [finish c.ras2819t.base (c.ras2819t.ctrl n v).1, finish c.ras2819t.base (c.ras2819t.ctrl n v).2]

/-- The frames of RAS_2819T (R372): the swing-toggle message alone when the wanted swing differs from the assumed one. -/
def ras2819tFrames (c : Configuration) (n : NormCmd) (v : PsView) : List (List Byte) :=
  if wantSwing n = v.assumedSwingOn then ras2819tNormal c n v else c.ras2819t.swingToggle

/-- `build_TOSHIBA_RAS_2819T` (R372): the blocks, sent twice. -/
def buildToshibaRas2819t (c : Configuration) (n : NormCmd) (v : PsView) : Built :=
  let fs := (ras2819tFrames c n v).map Frame.bytes
  { frames := fs, plan := planRepeat c.ras2819t.base toshibaCopies (planBlocks c.ras2819t.base fs) }

/-- GENERATE.TOSHIBA.RAS_2819T (R372). -/
def execGenerateToshibaRas2819t (cmd : ClimateCommand) (s : State) : Host.Outcome State Fault Refusal :=
  .next (generate theConfig (buildToshibaRas2819t theConfig) cmd s)

/-! ### Toshiba RAC_PT1411HWRU -/

/-- The main block (R374). -/
def racPtMain (c : Configuration) (n : NormCmd) (v : PsView) : List Byte :=
  finish c.racPt.base (putTemp c.racPt.base c.racPt.table n (c.racPt.mainCtrl n v))

/-- The swing block (R374). -/
def racPtSwing (c : Configuration) (n : NormCmd) (v : PsView) : List Byte :=
  finish c.racPt.base (c.racPt.swingCtrl n v)

/-- `build_TOSHIBA_RAC_PT1411HWRU` (R374): main and swing block for every command. -/
def buildToshibaRacPt1411hwru (c : Configuration) (n : NormCmd) (v : PsView) : Built :=
  let fs := [Frame.bytes (racPtMain c n v), Frame.bytes (racPtSwing c n v)]
  { frames := fs, plan := planRepeat c.racPt.base c.racPt.base.plan.copies (planBlocks c.racPt.base fs) }

/-- GENERATE.TOSHIBA.RAC_PT1411HWRU (R374). -/
def execGenerateToshibaRacPt1411hwru (cmd : ClimateCommand) (s : State) : Host.Outcome State Fault Refusal :=
  .next (generate theConfig (buildToshibaRacPt1411hwru theConfig) cmd s)

/-! ### Daikin -/

/-- The three blocks (R380), each closed on its own (R224). -/
def daikinBlocks (c : Configuration) (n : NormCmd) (v : PsView) : List (List Byte) :=
  [finish c.daikin.base (c.daikin.block0 n v), finish c.daikin.base (c.daikin.block1 n v),
   finish c.daikin.base (c.daikin.block2 n v)]

/-- `build_DAIKIN` (R380): three blocks, the gap between them being MESSAGE_SPACE (R381). -/
def buildDaikin (c : Configuration) (n : NormCmd) (v : PsView) : Built :=
  let fs := (daikinBlocks c n v).map Frame.bytes
  { frames := fs, plan := planBlocks c.daikin.base fs }

/-- GENERATE.DAIKIN (R380). -/
def execGenerateDaikin (cmd : ClimateCommand) (s : State) : Host.Outcome State Fault Refusal :=
  .next (generate theConfig (buildDaikin theConfig) cmd s)

/-! ### Hitachi -/

/-- Hitachi's frame (R390): the byte-pair inversion, then the checksum over the inverted bytes (R260). -/
def hitachiFrame (c : Configuration) (n : NormCmd) (v : PsView) : List Byte :=
  finish c.hitachi.base (invertPairs (c.hitachi.ctrl n v) hitachiPairFirst)

/-- `build_HITACHI` (R390). -/
def buildHitachi (c : Configuration) (n : NormCmd) (v : PsView) : Built :=
  let f := Frame.bytes (hitachiFrame c n v)
  { frames := [f], plan := planSingle c.hitachi.base f }

/-- GENERATE.HITACHI (R390). -/
def execGenerateHitachi (cmd : ClimateCommand) (s : State) : Host.Outcome State Fault Refusal :=
  .next (generate theConfig (buildHitachi theConfig) cmd s)

end Sys2Proof.Machine
end

