-- ==== Sys2Proof/Machine/Dispatch.lean ====
section
/-! DEFINITION. The meaning of every instruction, one arm each. -/

namespace Sys2Proof.Machine

def exec (i : Instr) (s : State) : Host.Outcome State Fault Refusal :=
  match i with
  | .resolve brand variant => Sys2Proof.Machine.execResolve brand variant s
  | .generateLg cmd => Sys2Proof.Machine.execGenerateLg cmd s
  | .generateWhynter cmd => Sys2Proof.Machine.execGenerateWhynter cmd s
  | .generateYashima cmd => Sys2Proof.Machine.execGenerateYashima cmd s
  | .generateBallu cmd => Sys2Proof.Machine.execGenerateBallu cmd s
  | .generateTcl cmd => Sys2Proof.Machine.execGenerateTcl cmd s
  | .generateMitsubishi cmd => Sys2Proof.Machine.execGenerateMitsubishi cmd s
  | .generateMidea cmd => Sys2Proof.Machine.execGenerateMidea cmd s
  | .generateGree cmd => Sys2Proof.Machine.execGenerateGree cmd s
  | .generateFujitsu cmd => Sys2Proof.Machine.execGenerateFujitsu cmd s
  | .generateNec cmd => Sys2Proof.Machine.execGenerateNec cmd s
  | .generateCoolix cmd => Sys2Proof.Machine.execGenerateCoolix cmd s
  | .generateWhirlpool cmd => Sys2Proof.Machine.execGenerateWhirlpool cmd s
  | .generateToshibaGeneric cmd => Sys2Proof.Machine.execGenerateToshibaGeneric cmd s
  | .generateToshibaRas2819t cmd => Sys2Proof.Machine.execGenerateToshibaRas2819t cmd s
  | .generateToshibaRacPt1411hwru cmd => Sys2Proof.Machine.execGenerateToshibaRacPt1411hwru cmd s
  | .generateDaikin cmd => Sys2Proof.Machine.execGenerateDaikin cmd s
  | .generateHitachi cmd => Sys2Proof.Machine.execGenerateHitachi cmd s
  | .generateUnbound cmd => Sys2Proof.Machine.execGenerateUnbound cmd s
  | .queryTemperatureMin => Sys2Proof.Machine.execQueryTemperatureMin s
  | .queryTemperatureMax => Sys2Proof.Machine.execQueryTemperatureMax s
  | .queryTemperatureStep => Sys2Proof.Machine.execQueryTemperatureStep s
  | .querySupportedHvacModes => Sys2Proof.Machine.execQuerySupportedHvacModes s
  | .querySupportedFanModes => Sys2Proof.Machine.execQuerySupportedFanModes s
  | .querySupportedSwingModes => Sys2Proof.Machine.execQuerySupportedSwingModes s
  | .queryBrandList => Sys2Proof.Machine.execQueryBrandList s
  | .queryReservedSelector => Sys2Proof.Machine.execQueryReservedSelector s
  | .queryStatus => Sys2Proof.Machine.execQueryStatus s
  | .queryBinding => Sys2Proof.Machine.execQueryBinding s
  | .queryPsFlags => Sys2Proof.Machine.execQueryPsFlags s
  | .queryPrevTemp => Sys2Proof.Machine.execQueryPrevTemp s
  | .queryPrevMode => Sys2Proof.Machine.execQueryPrevMode s
  | .queryModeTrans => Sys2Proof.Machine.execQueryModeTrans s
  | .querySeq => Sys2Proof.Machine.execQuerySeq s
  | .queryErrInfo => Sys2Proof.Machine.execQueryErrInfo s
  | .release => Sys2Proof.Machine.execRelease s
  | .reservedOp0 => Sys2Proof.Machine.execReservedOp0 s
  | .reservedOp5 => Sys2Proof.Machine.execReservedOp5 s
  | .reservedOp6 => Sys2Proof.Machine.execReservedOp6 s
  | .reservedOp7 => Sys2Proof.Machine.execReservedOp7 s
  | .reservedOp8 => Sys2Proof.Machine.execReservedOp8 s
  | .reservedOp9 => Sys2Proof.Machine.execReservedOp9 s
  | .reservedOpA => Sys2Proof.Machine.execReservedOpA s
  | .reservedOpB => Sys2Proof.Machine.execReservedOpB s
  | .reservedOpC => Sys2Proof.Machine.execReservedOpC s
  | .reservedOpD => Sys2Proof.Machine.execReservedOpD s
  | .reservedOpE => Sys2Proof.Machine.execReservedOpE s
  | .reservedOpF => Sys2Proof.Machine.execReservedOpF s

end Sys2Proof.Machine
end

