-- ==== Sys2Proof/Machine/Port.lean ====
section
/-! DEFINITION. Serving the ports of an encoder instance (spec/20_memory.md R61, R64, R70; spec/70_reset_and_hazards.md
R451). -/

namespace Sys2Proof.Machine

/-- The instance takes the next input sample: it is spent, and a response that was on the port is over (log 5, 6). -/
def State.sampled (s : State) (rest : List PortInput) : State := { s with inputs := rest, rsp := none }

/-- `rst` (R451): the reset state at once, whatever was under way. The samples still to come are no state of the block. -/
def State.resetPort (rest : List PortInput) : State := { State.reset with inputs := rest }

/-- Serving one sample. `rst` wins (R451; log 8). While a sequence is being emitted the instance offers its durations and
accepts no command (R27, R70); else it executes the command offered, if there is one (R7, R70; log 7). -/
def serve (p : PortInput) (s : State) (rest : List PortInput) : Host.Outcome State Fault Refusal :=
  if p.rst then .next (State.resetPort rest)
  else if s.cmdReady then
    if p.cmdValid then exec (decode s.binding p.cmdWord) (s.sampled rest) else .next (s.sampled rest)
  else if p.pulseReady then .next (s.sampled rest).take
  else .next (s.sampled rest)

/-- The sample by which a caller offers a command word. -/
def PortInput.command (cw : Word) : PortInput := { rst := false, cmdValid := true, cmdWord := cw, pulseReady := false }

end Sys2Proof.Machine
end

