-- ==== Sys2Proof/Machine/Step.lean ====
section
/-! DEFINITION. One step of an encoder instance. The block fetches no instructions (spec/10_state.md R27); its next
instruction is the command word that the next accepted input sample carries. -/

namespace Sys2Proof.Machine

/-- One step serves one sample of the input signals. With nothing driven the instance is idle (R429, R450). -/
def step (s : State) : Host.Outcome State Fault Refusal :=
  match s.inputs with
  | [] => .next (s.sampled [])
  | p :: rest => serve p s rest

/-- The state `s` with the command word of `w` as the next one offered. The port accepts a command only when no sequence is
being emitted (R70), so PQ is emptied and CUR is 0 (log 35). -/
def State.withFetchWord (s : State) (nbits w : Nat) : State :=
  { s with inputs := PortInput.command (BitVec.ofNat 32 (w % 2 ^ nbits)) :: s.inputs, pq := [], cur := 0 }

end Sys2Proof.Machine
end

