-- ==== Sys2Proof/Machine/Assembler.lean ====
section
/-! DEFINITION. The assembler (spec/30_encoding.md R111 to R113): the commands of the text form as data, the words they
assemble to, and their text. There are no pseudo-instructions (R112). -/

namespace Sys2Proof.Machine

/-- A name of an enumeration, or a number (R111). -/
inductive Operand (α : Type) where
  | name (a : α)
  | number (n : Nat)
  deriving DecidableEq, Repr

/-- A line of a program (R111). `variant = none` is an omitted variant; `halfDegrees` is twice the decimal temperature. -/
inductive Asm where
  | resolve (brand : Operand Brand) (variant : Option Nat)
  | gen (mode : Operand Mode) (halfDegrees : Int) (fan : Operand FanSpeed) (swing : Operand SwingSetting)
  | query (sel : Nat)
  | release
  deriving DecidableEq, Repr

/-! The spec gives no range check and no masking for a number wider than its field. The model takes its low bits, eight for a
brand and four for the others, the variant and the selector in `assemble` among them: a DESIGN CHOICE (log 40). -/

/-- The number of a brand operand (R97, R111); a number above 255 is the model's choice (log 40). -/
def brandNumber : Operand Brand → BitVec 8
  | .name b => b.code
  | .number n => BitVec.ofNat 8 n

/-- The number of a mode operand (R94, R111); a number above 15 is the model's choice (log 40). -/
def modeNumber : Operand Mode → BitVec 4
  | .name m => m.code
  | .number n => BitVec.ofNat 4 n

/-- The number of a fan operand (R95, R111); a number above 15 is the model's choice (log 40). -/
def fanNumber : Operand FanSpeed → BitVec 4
  | .name f => f.code
  | .number n => BitVec.ofNat 4 n

/-- The number of a swing operand (R96, R111); a number above 15 is the model's choice (log 40). -/
def swingNumber : Operand SwingSetting → BitVec 4
  | .name s => s.code
  | .number n => BitVec.ofNat 4 n

/-- The word a line assembles to (R113). A variant or selector above 15 is the model's choice (log 40); the temperature is
taken modulo 65536 as R113 says. -/
def assemble : Asm → Word
  | .resolve b none => encodeResolve (brandNumber b) 0xF
  | .resolve b (some v) => encodeResolve (brandNumber b) (BitVec.ofNat 4 v)
  | .gen m t f s =>
    encodeGenerate { mode := modeNumber m, fan := fanNumber f, swing := swingNumber s, temp := BitVec.ofInt 16 t }
  | .query n => encodeQuery (BitVec.ofNat 4 n)
  | .release => 0x40000000

/-! ### The text -/

/-- Mode names (R94). -/
def modeName : Mode → String
  | .off => "Off" | .heat => "Heat" | .cool => "Cool" | .dry => "Dry" | .fanOnly => "FanOnly" | .auto => "Auto"
  | .heatCool => "HeatCool"

/-- FanSpeed names (R95). -/
def fanName : FanSpeed → String
  | .auto => "Auto" | .low => "Low" | .medium => "Medium" | .high => "High" | .quiet => "Quiet"

/-- SwingSetting names (R96). -/
def swingName : SwingSetting → String
  | .off => "Off" | .vertical => "Vertical" | .horizontal => "Horizontal" | .both => "Both"

/-- Brand names (R97). -/
def brandName : Brand → String
  | .lg => "LG" | .daikin => "DAIKIN" | .mitsubishi => "MITSUBISHI" | .toshiba => "TOSHIBA" | .midea => "MIDEA"
  | .gree => "GREE" | .fujitsu => "FUJITSU" | .tcl => "TCL" | .ballu => "BALLU" | .coolix => "COOLIX"
  | .hitachi => "HITACHI" | .whirlpool => "WHIRLPOOL" | .whynter => "WHYNTER" | .yashima => "YASHIMA" | .nec => "NEC"

/-- Selector names (spec/10_state.md R37); selector 7 has none. -/
def selectorName (n : Nat) : Option String :=
  ["TEMP_MIN", "TEMP_MAX", "TEMP_STEP", "SUPPORTED_MODES", "SUPPORTED_FANS", "SUPPORTED_SWINGS", "BRAND_LIST", "", "STATUS",
   "BINDING", "PS_FLAGS", "PREV_TEMP", "PREV_MODE", "MODE_TRANS", "SEQ", "ERR_INFO"][n]?.filter (· ≠ "")

/-- An operand as text. -/
def operandText {α : Type} (name : α → String) : Operand α → String
  | .name a => name a
  | .number n => toString n

/-- A half-degree count as decimal degrees (R111). -/
def degreesText (t : Int) : String :=
  (if t < 0 then "-" else "") ++ toString (t.natAbs / 2) ++ (if t.natAbs % 2 = 1 then ".5" else "")

/-- A line of text (R111). -/
def Asm.text : Asm → String
  | .resolve b none => "RESOLVE " ++ operandText brandName b
  | .resolve b (some v) => "RESOLVE " ++ operandText brandName b ++ ", " ++ toString v
  | .gen m t f s =>
    "GEN " ++ operandText modeName m ++ ", " ++ degreesText t ++ ", " ++ operandText fanName f ++ ", "
      ++ operandText swingName s
  | .query n => "QUERY " ++ (selectorName n).getD (toString n)
  | .release => "RELEASE"

end Sys2Proof.Machine
end

