-- ==== Sys2Proof/Machine/Platform.lean ====
section
/-! DEFINITION. Several instances (spec/00_scope.md R17, spec/20_memory.md R80, spec/60_exceptions.md R429): a list of encoder
instances that share the configuration and nothing else. The platform numbers them; a step of the platform is a step of one
of them, in any order. -/

namespace Sys2Proof.Machine

/-- A platform of `n` instances, all in the reset state (R429). -/
def Platform.reset (n : Nat) : List State := List.replicate n State.reset

/-- Instance `i` takes a step; an index that no instance has does nothing. -/
def Platform.step (i : Nat) (p : List State) : Host.Outcome (List State) Fault Refusal :=
  match p[i]? with
  | none => .next p
  | some s =>
    match Machine.step s with
    | .next s' => .next (p.set i s')
    | .fault r => .fault r
    | .refused r => .refused r

end Sys2Proof.Machine
end

