-- ==== Sys2Proof/Safety.lean ====
section
/-! DEFINITION. The terms the claims use: what a state of a run satisfies, what an accepted GENERATE leaves, and the builder
of a target as one function. -/

namespace Sys2Proof.Machine

/-! ### GENERATE over all brands -/

/-- The builder that a binding selects (spec/30_encoding.md R107, spec/40_facade_ops.md R147). -/
def builderOf (c : Configuration) : Target → Builder
  | .lg => buildLg c
  | .daikin => buildDaikin c
  | .mitsubishi => buildMitsubishi c
  | .toshibaGeneric => buildToshibaGeneric c
  | .toshibaRas2819t => buildToshibaRas2819t c
  | .toshibaRacPt1411hwru => buildToshibaRacPt1411hwru c
  | .midea => buildMidea c
  | .gree _ => buildGree c
  | .fujitsu => buildFujitsu c
  | .tcl => buildTcl c
  | .ballu => buildBallu c
  | .coolix => buildCoolix c
  | .hitachi => buildHitachi c
  | .whirlpool => buildWhirlpool c
  | .whynter => buildWhynter c
  | .yashima => buildYashima c
  | .nec => buildNec c

/-- What a GENERATE that ends OK leaves in `t` when it was accepted in `s` with the façade `fa`, the normalised command `n`
and the emission plan `plan` (spec/40_facade_ops.md R147, R152, R153, R155), register by register. -/
structure Accepted (s t : State) (fa : Facade) (cmd : ClimateCommand) (n : NormCmd) (plan : Plan) : Prop where
  /-- R22, R153: the binding stays; PS records the normalised command. -/
  facade  : t.facade = some
    { target := fa.target
      ps := { assumedPowerOn := decide (n.mode ≠ .off), assumedSwingOn := decide (n.swing ≠ .off)
              previous := some { temperature := BitVec.ofInt 16 n.temp, mode := n.mode }
              modeTransitionBits := (theConfig.desc fa.target).mtbNext n fa.view } }
  /-- R152. -/
  diag    : t.diag = diagnose (theConfig.desc fa.target) cmd
  /-- R153, R31. -/
  seq     : t.seq = s.seq + 1
  /-- R147, R155. -/
  pq      : t.pq = ser (theConfig.desc fa.target).timing plan
  cur     : t.cur = 0
  rsp     : t.rsp = some { status := .ok, data := BitVec.ofNat 32 t.pq.length }
  /-- R26, R417: ERR and ERR_INFO stay. -/
  err     : t.err = s.err
  errInfo : t.errInfo = s.errInfo
  /-- R41: the transient registers hold no value any more. -/
  quiet   : t.cmd = none ∧ t.norm = none ∧ t.fb = none
  inputs  : t.inputs = s.inputs

/-- The bits of byte `i` that a list of positions covers. -/
def maskAt (ps : List (Nat × Byte)) (i : Nat) : Byte :=
  ps.foldl (fun m p => if p.1 = i then m ||| p.2 else m) 0

/-- A frame is what the control function returned but for the positions `fixed`, which the brand rule writes
(spec/43_frame_families.md R259 c). -/
def agreesOutside (fixed : List (Nat × Byte)) (ctrl f : List Byte) : Prop :=
  f.length = ctrl.length ∧ ∀ i, f.getD i 0 &&& ~~~(maskAt fixed i) = ctrl.getD i 0 &&& ~~~(maskAt fixed i)

/-- The bits of a field position in a frame, in place. -/
def fieldBits (p : FieldPos) (f : List Byte) : Byte := f.getD p.byte 0 &&& (p.mask <<< p.shift)

/-- A field holds no bit of the frame's checksum, so that the checksum step, which comes last
(spec/43_frame_families.md R260), leaves it as it is. For a `custom` kind the checksum's bits are those of log 18. -/
def clearOfChecksum (d : Descriptor) (len : Nat) (p : FieldPos) : Prop :=
  ∀ q ∈ checksumBits d len, q.1 = p.byte → q.2 &&& (p.mask <<< p.shift) = 0

/-- Durations with kinds alternate: mark, space, mark, ... from the first (spec/41_pulse_primitives.md R201). -/
def alternates (ps : List Pulse) : Prop :=
  ∀ i, (h : i < ps.length) → ps[i].kind = if i % 2 = 0 then .mark else .space

/-! ### The invariant of an instance -/

/-- No register that holds a value only inside an operation holds one (spec/10_state.md R21, R28, R30, R41). -/
def State.quiet (s : State) : Prop := s.cmd = none ∧ s.norm = none ∧ s.fb = none

/-- The emission cursor (R27, R29, R36): nothing is queued and CUR is 0, or CUR is inside the queue. -/
def State.cursorOk (s : State) : Prop := (s.pq = [] ∧ s.cur = 0) ∨ s.cur < s.pq.length

/-- No sequence is longer than PS_MAX, and CUR stays inside it (spec/41_pulse_primitives.md R203, R27). -/
def State.boundedOk (s : State) : Prop := s.pq.length ≤ psMax theConfig ∧ s.cur ≤ psMax theConfig

/-- Every queued duration is positive (R29, spec/30_encoding.md R109). -/
def State.durationsOk (s : State) : Prop := ∀ d ∈ s.pq, d ≠ 0

/-- An unbound instance has nothing queued, no command counted and no diagnostic (R36, spec/40_facade_ops.md R145). -/
def State.unboundOk (s : State) : Prop := s.facade = none → s.pq = [] ∧ s.seq = 0 ∧ s.diag = .zero

/-- The record of a failed RESOLVE (R26, spec/60_exceptions.md R414): none, or a brand code that the Registry does not hold,
below a variant code, and zeros above. -/
def State.errorOk (s : State) : Prop :=
  (s.err = false ∧ s.errInfo = 0) ∨
  (s.err = true ∧ ∃ brand variant, registry theConfig brand = none ∧ s.errInfo = brandVariantWord brand variant)

/-- A recorded command is a normalised one (R23, spec/40_facade_ops.md R153): its mode is supported and its temperature lies
inside the bounds, in whole degrees for a whole-degree brand. -/
def Previous.ok (d : Descriptor) (p : Previous) : Prop :=
  d.supportedModes p.mode = true ∧ d.tempMin ≤ p.temperature.toNat ∧ p.temperature.toNat ≤ d.tempMax ∧
    (d.tempStep = .whole → p.temperature.toNat % 2 = 0)

/-- PS of a façade (R35, R40, spec/40_facade_ops.md R153): fresh, or the record of a command. -/
def ProtocolState.ok (d : Descriptor) (ps : ProtocolState) : Prop :=
  ps = .fresh ∨ ∃ p, ps.previous = some p ∧ Previous.ok d p ∧ ps.assumedPowerOn = decide (p.mode ≠ .off)

/-- A binding (R22, spec/40_facade_ops.md R140, R141): its brand is registered, and its PS is in order. -/
def State.bindingOk (s : State) : Prop :=
  ∀ fa, s.facade = some fa → theConfig.registered fa.target.brand = true ∧ fa.ps.ok (theConfig.desc fa.target)

/-- The invariant of an encoder instance. -/
structure State.Inv (s : State) : Prop where
  quiet     : s.quiet
  cursor    : s.cursorOk
  bounded   : s.boundedOk
  durations : s.durationsOk
  unbound   : s.unboundOk
  error     : s.errorOk
  binding   : s.bindingOk

end Sys2Proof.Machine
end

