-- ==== Sys2Proof/Certificates/Slice0/Obligations.lean ====
section
/-! DEFINITION. The statements for the provers. -/

open Sys2Proof Sys2Proof.Machine

/-! ### Encoding -/

/-- Decoding the encoding of an instruction under a binding under which it stands gives the instruction back: no bit of an
operand is dropped (spec/30_encoding.md R90 to R93, R99, R107). -/
def Obligations.DecodeOfEncodeIsTheInstruction : Prop :=
  ∀ (b : Option Target) (i : Instr), i.wellFormed b = true → decode b (encode i) = i

/-- R103. -/
def Obligations.DecodeIgnoresReservedFields : Prop :=
  ∀ (b : Option Target) (cw cw' : Word), opField cw' = opField cw →
    (opField cw = 1 → brandField cw' = brandField cw ∧ variantField cw' = variantField cw) →
    (opField cw = 2 → climateField cw' = climateField cw) →
    (opField cw = 3 → selField cw' = selField cw) →
    decode b cw' = decode b cw

/-- R114: every word decodes under every binding, to an instruction that stands under that binding and whose own word has the
same operation code and decodes the same way. -/
def Obligations.EveryWordDecodes : Prop :=
  ∀ (b : Option Target) (cw : Word),
    (decode b cw).wellFormed b = true ∧ opField (encode (decode b cw)) = opField cw ∧
      decode b (encode (decode b cw)) = decode b cw

/-- Words written out from R91 to R93, R99 and the examples of spec/30_encoding.md and spec/40_facade_ops.md. -/
def Obligations.WordsOfTheSpecDecode : Prop :=
  decode none 0x109F0000 = .resolve 9 0xF ∧
  decode none 0x120F0000 = .resolve 0x20 0xF ∧
  decode (some .lg) 0x22300030 = .generateLg ⟨2, 3, 0, 0x30⟩ ∧
  decode (some .coolix) 0x22300030 = .generateCoolix ⟨2, 3, 0, 0x30⟩ ∧
  decode (some .toshibaRas2819t) 0x2FFF8000 = .generateToshibaRas2819t ⟨0xF, 0xF, 0xF, 0x8000⟩ ∧
  decode none 0x22300030 = .generateUnbound ⟨2, 3, 0, 0x30⟩ ∧
  decode none 0x30000000 = .queryTemperatureMin ∧
  decode none 0x3F000000 = .queryErrInfo ∧
  decode none 0x37000000 = .queryReservedSelector ∧
  decode none 0x40000000 = .release ∧
  decode none 0x00000000 = .reservedOp0 ∧
  decode none 0xF1234567 = .reservedOpF

/-- R113, as sums of the shifted fields; an operand is a name or a number. `h` is twice the temperature in degrees. That a
number wider than its field counts with its low bits (`brandNumber` and the like) is the model's choice (log 40). -/
def Obligations.AssembledWords : Prop :=
  (∀ b : Operand Brand, (assemble (.resolve b none)).toNat = 0x10000000 + (brandNumber b).toNat * 2 ^ 20 + 0xF * 2 ^ 16) ∧
  (∀ (b : Operand Brand) (v : Nat), v < 16 →
    (assemble (.resolve b (some v))).toNat = 0x10000000 + (brandNumber b).toNat * 2 ^ 20 + v * 2 ^ 16) ∧
  (∀ (m : Operand Mode) (h : Int) (f : Operand FanSpeed) (s : Operand SwingSetting),
    ((assemble (.gen m h f s)).toNat : Int) =
      0x20000000 + (modeNumber m).toNat * 2 ^ 24 + (fanNumber f).toNat * 2 ^ 20 + (swingNumber s).toNat * 2 ^ 16 +
        h % 65536) ∧
  (∀ n : Nat, n < 16 → (assemble (.query n)).toNat = 0x30000000 + n * 2 ^ 24) ∧
  assemble .release = 0x40000000

/-! ### The step -/

/-- A step at which a command is offered and the port is ready is `exec` of what the command word decodes to, which is an
instruction that stands under the binding. Around `exec` the step spends the input sample and ends the response that was on
the port. The model's choices in it: one sample is spent a step (log 5), a response is over after one step (log 6), and the
command is executed and answered in the step that accepts it (log 7). -/
def Obligations.StepRunsTheDecodedCommand : Prop :=
  ∀ (s : State) (p : PortInput) (rest : List PortInput) (i : Instr),
    s.inputs = p :: rest → p.rst = false → p.cmdValid = true → s.cmdReady = true → decode s.binding p.cmdWord = i →
    i.wellFormed s.binding = true ∧ step s = exec i { s with inputs := rest, rsp := none }

/-- R451: `rst` takes the instance to the reset state at once, from any state. The model's choices in it: `rst` wins over a
command or a ready consumer in the same sample (log 8), and the reset state has no response on the port (log 6). -/
def Obligations.ResetPinLeavesTheResetState : Prop :=
  ∀ (s : State) (p : PortInput) (rest : List PortInput), s.inputs = p :: rest → p.rst = true →
    ∃ t, step s = .next t ∧ t = { State.reset with inputs := rest } ∧ t.pq = [] ∧ t.cur = 0 ∧ t.pulseValid = false

/-- R27: a duration that is taken moves CUR by exactly 1; after the last one PQ is empty and the command port is ready; no
register but PQ and CUR changes. -/
def Obligations.TakingADurationMovesTheCursor : Prop :=
  ∀ (s : State) (p : PortInput) (rest : List PortInput),
    s.inputs = p :: rest → p.rst = false → p.pulseReady = true → s.cur < s.pq.length →
    ∃ t, step s = .next t ∧
      (if s.cur + 1 < s.pq.length then t.cur = s.cur + 1 ∧ t.pq = s.pq ∧ t.cmdReady = false
        else t.pq = [] ∧ t.cmdReady = true) ∧
      t.facade = s.facade ∧ t.err = s.err ∧ t.errInfo = s.errInfo ∧ t.diag = s.diag ∧ t.seq = s.seq ∧ t.cmd = s.cmd ∧
      t.norm = s.norm ∧ t.fb = s.fb ∧ t.inputs = rest

/-- R155, R70, R450, R462: without a handshake nothing moves. While durations are still to be taken, what is driven on the
command port makes no difference, and with `pulse_ready` low the duration offered stays offered; while none is, an instance to
which no command is offered, or to which nothing at all is driven, changes no register. That the step spends one sample and
ends the response that was on the port is the model's choice (logs 5, 6, 33). -/
def Obligations.NothingMovesWithoutAHandshake : Prop :=
  (∀ (s : State) (p : PortInput) (rest : List PortInput) (valid : Bool) (cw : Word),
    s.inputs = p :: rest → p.rst = false → s.cur < s.pq.length →
    step { s with inputs := { p with cmdValid := valid, cmdWord := cw } :: rest } = step s) ∧
  (∀ (s : State) (p : PortInput) (rest : List PortInput),
    s.inputs = p :: rest → p.rst = false → p.pulseReady = false → s.cur < s.pq.length →
    ∃ t, step s = .next t ∧ t = { s with inputs := rest, rsp := none } ∧ t.pulseValid = true ∧ t.pulseDur = s.pq[s.cur]? ∧
      t.pulseIsMark = s.pulseIsMark ∧ t.pulseLast = s.pulseLast ∧ t.cmdReady = false) ∧
  (∀ (s : State) (p : PortInput) (rest : List PortInput),
    s.inputs = p :: rest → p.rst = false → p.cmdValid = false → s.pq.length ≤ s.cur →
    step s = .next { s with inputs := rest, rsp := none }) ∧
  (∀ s : State, s.inputs = [] → step s = .next { s with rsp := none })

/-- R469: from every state, whatever is driven on the ports, every number of steps ends in a next state: no fault, no
refusal. -/
def Obligations.EverySequenceHasAResult : Prop :=
  ∀ (n : Nat) (s : State), ∃ t : State, Host.Core.run Sys2Proof.core n s = .next t

/-- The invariant `State.Inv` holds of the reset state (R36). -/
def Obligations.ResetMeetsTheInvariant : Prop := State.reset.Inv

/-- Every step keeps the invariant: outside an operation the transient registers hold no value; the cursor is inside the
queue; no sequence is longer than PS_MAX (R203); every queued duration is positive; an unbound instance has nothing queued; ERR_INFO records an unregistered brand or is
0; the bound brand is registered and its PS is fresh or the record of a normalised command. The model's choices in it: CUR is 0
once the last duration has been taken (log 12), and a recorded temperature fits its 16 bits because `temp_max` does (log 3). -/
def Obligations.StepKeepsTheInvariant : Prop :=
  ∀ s t : State, s.Inv → step s = .next t → t.Inv

/-- R27, R64: when the consumer is ready, the durations that are left are offered in index order, one a step, with their kind
and with `pulse_last` on the last one alone; when all have been taken the queue is empty and the command port is ready. -/
def Obligations.WholeSequenceIsOfferedInOrder : Prop :=
  ∀ (s : State) (ready rest : List PortInput),
    s.inputs = ready ++ rest → (∀ p ∈ ready, p.rst = false ∧ p.pulseReady = true) →
    s.cur + ready.length ≤ s.pq.length → ready ≠ [] →
    ∃ t : State, Host.Core.run Sys2Proof.core ready.length s = .next t ∧ t.inputs = rest ∧ t.facade = s.facade ∧
      t.seq = s.seq ∧
      if s.cur + ready.length = s.pq.length then t.pq = [] ∧ t.pulseValid = false ∧ t.cmdReady = true
      else t.pulseValid = true ∧ t.pulseDur = s.pq[s.cur + ready.length]? ∧
        t.pulseIsMark = decide ((s.cur + ready.length) % 2 = 0) ∧
        t.pulseLast = decide (s.cur + ready.length + 1 = s.pq.length) ∧ t.cmdReady = false

/-- R80: a step of one instance changes nothing in another. -/
def Obligations.InstancesAreIndependent : Prop :=
  ∀ (p : List State) (i : Nat), i < p.length →
    ∃ p', Platform.step i p = .next p' ∧ p'.length = p.length ∧ ∀ j, j ≠ i → p'[j]? = p[j]?

/-! ### The façade -/

/-- R140 to R144, R414: RESOLVE answers for every operand in every state. Over every configuration: a brand the Registry does
not hold raises UnsupportedBrand and changes nothing but ERR and ERR_INFO; a brand it holds leaves fresh state bound to that
brand and to the effective variant. -/
def Obligations.ResolveBindsOrRaises : Prop :=
  ∀ (brand : BitVec 8) (variant : BitVec 4) (s : State),
    exec (.resolve brand variant) s = .next (resolve theConfig brand variant s) ∧
    ∀ (c : Configuration) (t : State), t = resolve c brand variant s →
      t.inputs = s.inputs ∧ t.cmd = none ∧ t.norm = none ∧ t.fb = none ∧
      match registry c brand with
      | none =>
        t.err = true ∧ t.errInfo.toNat = variant.toNat * 256 + brand.toNat ∧
        t.rsp = some ⟨.unsupportedBrand, t.errInfo⟩ ∧ t.facade = s.facade ∧ t.seq = s.seq ∧ t.diag = s.diag ∧
        t.pq = s.pq ∧ t.cur = s.cur
      | some b =>
        t.boundBit = true ∧ t.brandReg = brand ∧
        t.variantReg = (if variant.toNat < b.variants then variant else 0) ∧
        (∃ fa, t.facade = some fa ∧ fa.ps.assumedPowerOn = false ∧ fa.ps.assumedSwingOn = false ∧ fa.ps.previous = none ∧
          fa.ps.modeTransitionBits = 0) ∧
        t.seq = 0 ∧ t.diag = ⟨false, false, false⟩ ∧ t.err = false ∧ t.errInfo = 0 ∧ t.pq = [] ∧ t.cur = 0 ∧
        ∃ w, t.rsp = some ⟨.ok, w⟩ ∧ w.toNat = t.variantReg.toNat * 256 + brand.toNat

/-- R141, R97, R98, R106, R142: the brand and variant codes are those of the tables; the Registry is looked up by exact code
and holds no code from 15 on; each brand with each of its variant codes is a target of its own, and a variant code the brand
has not gives its target 0. -/
def Obligations.RegistryIsExact : Prop :=
  ([.lg, .daikin, .mitsubishi, .toshiba, .midea, .gree, .fujitsu, .tcl, .ballu, .coolix, .hitachi, .whirlpool, .whynter,
    .yashima, .nec] : List Brand).map Brand.code = [0, 1, 2, 3, 4, 5, 6, 7, 8, 9, 10, 11, 12, 13, 14] ∧
  (∀ b : Brand, b.variants = if b = .toshiba then 3 else if b = .gree then 7 else 1) ∧
  (Target.of .toshiba 0 = .toshibaGeneric ∧ Target.of .toshiba 1 = .toshibaRas2819t ∧
    Target.of .toshiba 2 = .toshibaRacPt1411hwru ∧ ∀ m : Fin 7, Target.of .gree (BitVec.ofNat 4 m.val) = .gree m) ∧
  (∀ (c : Configuration) (code : BitVec 8) (b : Brand), registry c code = some b ↔ b.code = code ∧ c.registered b = true) ∧
  (∀ (c : Configuration) (code : BitVec 8), 15 ≤ code.toNat → registry c code = none) ∧
  (∀ (b : Brand) (v : BitVec 4), v.toNat < b.variants → (Target.of b v).brand = b ∧ (Target.of b v).variant = v) ∧
  (∀ (b : Brand) (v : BitVec 4), b.variants ≤ v.toNat → Target.of b (effectiveVariant b v) = Target.of b 0) ∧
  (∀ t : Target, Target.of t.brand t.variant = t)

/-- R145: after RELEASE the instance equals a reset instance, bound or not before. -/
def Obligations.ReleaseEqualsReset : Prop :=
  ∀ s : State, exec .release s = .next { State.reset with rsp := some ⟨.ok, 0⟩, inputs := s.inputs }

/-- R22: BOUND, BRAND and VARIANT are written by RESOLVE and RELEASE only. -/
def Obligations.OnlyResolveAndReleaseRebind : Prop :=
  ∀ (i : Instr) (s t : State), exec i s = .next t → (∀ b v, i ≠ .resolve b v) → i ≠ .release →
    t.binding = s.binding ∧ t.boundBit = s.boundBit ∧ t.brandReg = s.brandReg ∧ t.variantReg = s.variantReg

/-- R417: ERR is sticky: no operation but RESOLVE and RELEASE changes ERR or ERR_INFO. -/
def Obligations.ErrorRecordIsSticky : Prop :=
  ∀ (i : Instr) (s t : State), exec i s = .next t → (∀ b v, i ≠ .resolve b v) → i ≠ .release →
    t.err = s.err ∧ t.errInfo = s.errInfo

/-! ### Normalisation -/

/-- R94 to R96, R148 to R150: the codes are those of the tables; a supported setting is kept; a code of no supported setting
becomes the brand's default, and Off for the swing. -/
def Obligations.SettingsAreNormalised : Prop :=
  [Mode.off, .heat, .cool, .dry, .fanOnly, .auto, .heatCool].map Mode.code = [0, 1, 2, 3, 4, 5, 6] ∧
  [FanSpeed.auto, .low, .medium, .high, .quiet].map FanSpeed.code = [0, 1, 2, 3, 4] ∧
  [SwingSetting.off, .vertical, .horizontal, .both].map SwingSetting.code = [0, 1, 2, 3] ∧
  ∀ d : Descriptor,
    (∀ x, d.supportedModes x = true → normMode d x.code = x) ∧
    (∀ m, (∀ x : Mode, x.code = m → d.supportedModes x = false) → normMode d m = d.defaultMode) ∧
    (∀ x, d.supportedFans x = true → normFan d x.code = x) ∧
    (∀ f, (∀ x : FanSpeed, x.code = f → d.supportedFans x = false) → normFan d f = d.defaultFan) ∧
    (∀ x, d.supportedSwings x = true → normSwing d x.code = x) ∧
    (∀ w, (∀ x : SwingSetting, x.code = w → d.supportedSwings x = false) → normSwing d w = .off)

/-- R151: clamp, then drop the half degree for a whole-degree brand. -/
def Obligations.TemperatureIsClampedThenQuantised : Prop :=
  ∀ (d : Descriptor) (t : Int), d.WellFormed →
    (t ≤ d.tempMin → normTemp d t = d.tempMin) ∧
    (d.tempMax ≤ t → normTemp d t = d.tempMax) ∧
    (d.tempMin ≤ t → t ≤ d.tempMax → normTemp d t = if d.tempStep = .whole then t - t % 2 else t)

/-- R16, R147, R152: what normalisation yields is a normalised command of the bound brand, whatever the operands; and the
operands of a normalised command normalise to it, with DIAG 0, when the bounds fit the operand. CLAMPED says that the operand
lies outside the bounds, DEFAULTED that no supported mode or no supported fan has its code, IGNORED that the swing asked for is
not code 0 and yet becomes Off. -/
def Obligations.NormalisedCommandsAreTheFixedPoints : Prop :=
  ∀ (c : Configuration) (tgt : Target), c.WellFormed →
    (∀ cmd : ClimateCommand, (normalise (c.desc tgt) cmd).ValidFor (c.desc tgt)) ∧
    (∀ n : NormCmd, n.ValidFor (c.desc tgt) → (c.desc tgt).tempMax < 32768 →
      normalise (c.desc tgt) ⟨n.mode.code, n.fan.code, n.swing.code, BitVec.ofInt 16 n.temp⟩ = n ∧
      diagnose (c.desc tgt) ⟨n.mode.code, n.fan.code, n.swing.code, BitVec.ofInt 16 n.temp⟩ = ⟨false, false, false⟩) ∧
    ∀ cmd : ClimateCommand,
      let d := c.desc tgt
      ((diagnose d cmd).clamped = true ↔ cmd.temp.toInt < d.tempMin ∨ d.tempMax < cmd.temp.toInt) ∧
      ((diagnose d cmd).defaulted = true ↔ (∀ x : Mode, x.code = cmd.mode → d.supportedModes x = false) ∨
        ∀ x : FanSpeed, x.code = cmd.fan → d.supportedFans x = false) ∧
      ((diagnose d cmd).ignored = true ↔ cmd.swing ≠ 0 ∧ (normalise d cmd).swing = .off)

/-- R151: temperatures at or below the minimum encode identically, and so do those at or above the maximum. -/
def Obligations.OutOfRangeTemperatureEncodesAsTheBound : Prop :=
  ∀ (s : State) (fa : Facade) (m f w : BitVec 4) (x y : BitVec 16), s.facade = some fa →
    (x.toInt ≤ (theConfig.desc fa.target).tempMin ∧ y.toInt ≤ (theConfig.desc fa.target).tempMin ∨
      (theConfig.desc fa.target).tempMax ≤ x.toInt ∧ (theConfig.desc fa.target).tempMax ≤ y.toInt) →
    ∃ t u, exec (fa.target.generate ⟨m, f, w, x⟩) s = .next t ∧ exec (fa.target.generate ⟨m, f, w, y⟩) s = .next u ∧
      t.pq = u.pq ∧ t.facade = u.facade

/-! ### GENERATE, brand by brand -/

/-- R270: 28 bits; bits 11:8 hold the whole degrees above 15 in the modes that carry the temperature; bits 3:0 hold the sum of
the nibbles 1 to 7; all other bits are the control word's. -/
def Obligations.GenerateLg : Prop :=
  ∀ (cmd : ClimateCommand) (s : State) (ps : ProtocolState) (fa : Facade), fa = ⟨.lg, ps⟩ → s.facade = some fa →
    let b := theConfig.lg.base
    let n := normalise b cmd
    let ctrl := theConfig.lg.ctrl n fa.view
    ∃ (t : State) (w : Word), exec (.generateLg cmd) s = .next t ∧
      Accepted s t fa cmd n
        [⟨some (b.timing.headerMark, b.timing.headerSpace), bitsOfWord b.bitOrder 28 w, b.timing.trailer⟩] ∧
      (if b.tempModes n.mode then ((w.extractLsb' 8 4).toNat : Int) = n.temp / 2 - 15
        else w.extractLsb' 8 4 = ctrl.extractLsb' 8 4) ∧
      (w.extractLsb' 0 4).toNat = ((List.range 7).map fun k => (w.extractLsb' (4 * (k + 1)) 4).toNat).sum % 16 ∧
      w.extractLsb' 4 4 = ctrl.extractLsb' 4 4 ∧ w.extractLsb' 12 16 = ctrl.extractLsb' 12 16 ∧ w.extractLsb' 28 4 = 0

/-- R275: 32 bits; each of the four bytes is the control word's byte with its bits reversed. -/
def Obligations.GenerateWhynter : Prop :=
  ∀ (cmd : ClimateCommand) (s : State) (ps : ProtocolState) (fa : Facade), fa = ⟨.whynter, ps⟩ → s.facade = some fa →
    let b := theConfig.whynter.base
    let n := normalise b cmd
    let ctrl := theConfig.whynter.ctrl n fa.view
    ∃ (t : State) (w : Word), exec (.generateWhynter cmd) s = .next t ∧
      Accepted s t fa cmd n
        [⟨some (b.timing.headerMark, b.timing.headerSpace), bitsOfWord b.bitOrder 32 w, b.timing.trailer⟩] ∧
      ∀ k i, k < 4 → i < 8 → w.getLsbD (8 * k + i) = ctrl.getLsbD (8 * k + (7 - i))

/-- R280: 9 bytes; the temperature field holds the table entry at the distance from the minimum in the modes that carry the
temperature; the rest is the control function's, but for the checksum. -/
def Obligations.GenerateYashima : Prop :=
  ∀ (cmd : ClimateCommand) (s : State) (ps : ProtocolState) (fa : Facade), fa = ⟨.yashima, ps⟩ → s.facade = some fa →
    let b := theConfig.yashima.base
    let p := theConfig.yashima.table.field
    let n := normalise b cmd
    let ctrl := theConfig.yashima.ctrl n fa.view
    ∃ (t : State) (g f : List Byte), exec (.generateYashima cmd) s = .next t ∧
      Accepted s t fa cmd n
        [⟨some (b.timing.headerMark, b.timing.headerSpace), bitsOfBytes b.bitOrder f, b.timing.trailer⟩] ∧
      f = finish b g ∧ f.length = 9 ∧ closed b f ∧
      if b.tempModes n.mode then
        agreesOutside [(p.byte, p.mask <<< p.shift)] ctrl g ∧
        ∃ e, theConfig.yashima.table.entries[((n.temp - b.tempMin) / 2).toNat]? = some e ∧
          fieldBits p g = e <<< p.shift
      else g = ctrl

/-- R300: 13 bytes; byte 0 is 0xC3; byte 12 is the sum of the bytes 0 to 11 modulo 256; the rest is the control
function's. -/
def Obligations.GenerateBallu : Prop :=
  ∀ (cmd : ClimateCommand) (s : State) (ps : ProtocolState) (fa : Facade), fa = ⟨.ballu, ps⟩ → s.facade = some fa →
    let b := theConfig.ballu.base
    let n := normalise b cmd
    let ctrl := theConfig.ballu.ctrl n fa.view
    ∃ (t : State) (f : List Byte), exec (.generateBallu cmd) s = .next t ∧
      Accepted s t fa cmd n
        [⟨some (b.timing.headerMark, b.timing.headerSpace), bitsOfBytes b.bitOrder f, b.timing.trailer⟩] ∧
      f.length = 13 ∧ f[0]? = some 0xC3 ∧ (∀ i, 1 ≤ i → i < 12 → f[i]? = ctrl[i]?) ∧
      ∃ x, f[12]? = some x ∧ x.toNat = ((f.take 12).map BitVec.toNat).sum % 256

/-- R305: in the modes that carry the temperature the low nibble of byte 7 holds the whole degrees below 31, and bit 5 of byte
12 the half degree; the last byte is the checksum; the rest is the control function's. -/
def Obligations.GenerateTcl : Prop :=
  ∀ (cmd : ClimateCommand) (s : State) (ps : ProtocolState) (fa : Facade), fa = ⟨.tcl, ps⟩ → s.facade = some fa →
    let b := theConfig.tcl.base
    let n := normalise b cmd
    let ctrl := theConfig.tcl.ctrl n fa.view
    ∃ (t : State) (g f : List Byte), exec (.generateTcl cmd) s = .next t ∧
      Accepted s t fa cmd n
        [⟨some (b.timing.headerMark, b.timing.headerSpace), bitsOfBytes b.bitOrder f, b.timing.trailer⟩] ∧
      f = finish b g ∧ 14 ≤ f.length ∧ closed b f ∧
      if b.tempModes n.mode then
        agreesOutside [(7, 0x0F), (12, 0x20)] ctrl g ∧
        ((f.getD 7 0 &&& 0x0F).toNat : Int) = 31 - n.temp / 2 ∧
        f.getD 12 0 &&& 0x20 = if n.temp % 2 = 1 then 0x20 else 0
      else g = ctrl

/-- R310: one frame with a trailing checksum, sent twice with the repeat gap between the copies. -/
def Obligations.GenerateMitsubishi : Prop :=
  ∀ (cmd : ClimateCommand) (s : State) (ps : ProtocolState) (fa : Facade), fa = ⟨.mitsubishi, ps⟩ → s.facade = some fa →
    let b := theConfig.mitsubishi.base
    let n := normalise b cmd
    ∃ (t : State) (f : List Byte), exec (.generateMitsubishi cmd) s = .next t ∧
      Accepted s t fa cmd n
        [⟨some (b.timing.headerMark, b.timing.headerSpace), bitsOfBytes b.bitOrder f, .markGap b.plan.repMark b.plan.repGap⟩,
         ⟨some (b.timing.headerMark, b.timing.headerSpace), bitsOfBytes b.bitOrder f, b.timing.trailer⟩] ∧
      f.dropLast = (theConfig.mitsubishi.ctrl n fa.view).dropLast ∧ f.length = b.frameLen 0 ∧ closed b f

/-- R315: one frame with a trailing checksum. -/
def Obligations.GenerateMidea : Prop :=
  ∀ (cmd : ClimateCommand) (s : State) (ps : ProtocolState) (fa : Facade), fa = ⟨.midea, ps⟩ → s.facade = some fa →
    let b := theConfig.midea.base
    let n := normalise b cmd
    ∃ (t : State) (f : List Byte), exec (.generateMidea cmd) s = .next t ∧
      Accepted s t fa cmd n
        [⟨some (b.timing.headerMark, b.timing.headerSpace), bitsOfBytes b.bitOrder f, b.timing.trailer⟩] ∧
      f.dropLast = (theConfig.midea.ctrl n fa.view).dropLast ∧ f.length = b.frameLen 0 ∧ closed b f

/-- R320: the model of VARIANT forms the frame, and storing its checksum into the emitted frame again changes nothing. With a
single-frame plan and one copy (the default of R321) the frame is emitted once; every other plan the model is configured with
is `greePlan`. -/
def Obligations.GenerateGree : Prop :=
  ∀ (cmd : ClimateCommand) (s : State) (model : Fin 7) (ps : ProtocolState) (fa : Facade), fa = ⟨.gree model, ps⟩ →
    s.facade = some fa →
    let g := theConfig.gree model
    let b := g.base
    let n := normalise b cmd
    let f0 := g.ctrl n fa.view
    ∃ (t : State) (f : List Byte) (plan : Plan), exec (.generateGree cmd) s = .next t ∧ Accepted s t fa cmd n plan ∧
      f = g.store f0 (g.checksum f0) ∧ f.length = b.frameLen 0 ∧ g.store f (g.checksum f) = f ∧ plan = greePlan g f ∧
      (g.emission = .single → b.plan.copies = 1 → plan =
        [⟨some (b.timing.headerMark, b.timing.headerSpace), bitsOfBytes b.bitOrder f, b.timing.trailer⟩])

/-- R325, R326, R237: one frame of the control function's bytes, with a trailing checksum if the configuration has one. That
Fujitsu may also be configured with a `custom` kind, which R237 allows and R326 does not list, is the model's choice
(log 17). -/
def Obligations.GenerateFujitsu : Prop :=
  ∀ (cmd : ClimateCommand) (s : State) (ps : ProtocolState) (fa : Facade), fa = ⟨.fujitsu, ps⟩ → s.facade = some fa →
    let b := theConfig.fujitsu.base
    let n := normalise b cmd
    let ctrl := theConfig.fujitsu.ctrl n fa.view
    ∃ (t : State) (f : List Byte), exec (.generateFujitsu cmd) s = .next t ∧
      Accepted s t fa cmd n
        [⟨some (b.timing.headerMark, b.timing.headerSpace), bitsOfBytes b.bitOrder f, b.timing.trailer⟩] ∧
      f.length = b.frameLen 0 ∧
      match b.checksumKind with
      | .none => f = ctrl
      | .custom => f = b.finish ctrl
      | _ => f.dropLast = ctrl.dropLast ∧ closed b f

/-- R330: one frame of the control function's bytes, closed by the configured checksum. -/
def Obligations.GenerateNec : Prop :=
  ∀ (cmd : ClimateCommand) (s : State) (ps : ProtocolState) (fa : Facade), fa = ⟨.nec, ps⟩ → s.facade = some fa →
    let b := theConfig.nec.base
    let n := normalise b cmd
    ∃ (t : State) (f : List Byte), exec (.generateNec cmd) s = .next t ∧
      Accepted s t fa cmd n
        [⟨some (b.timing.headerMark, b.timing.headerSpace), bitsOfBytes b.bitOrder f, b.timing.trailer⟩] ∧
      f = finish b (theConfig.nec.ctrl n fa.view) ∧ f.length = b.frameLen 0 ∧ closed b f

/-- R350 to R352: the swing-toggle frame alone when the wanted swing differs from PS.assumed_swing_on; else the normal frame,
with the table entry in its temperature field in the modes that carry the temperature. -/
def Obligations.GenerateCoolix : Prop :=
  ∀ (cmd : ClimateCommand) (s : State) (ps : ProtocolState) (fa : Facade), fa = ⟨.coolix, ps⟩ → s.facade = some fa →
    let b := theConfig.coolix.base
    let p := theConfig.coolix.table.field
    let n := normalise b cmd
    let ctrl := theConfig.coolix.ctrl n fa.view
    ∃ (t : State) (f : List Byte), exec (.generateCoolix cmd) s = .next t ∧
      Accepted s t fa cmd n
        [⟨some (b.timing.headerMark, b.timing.headerSpace), bitsOfBytes b.bitOrder f, b.timing.trailer⟩] ∧
      f.length = b.frameLen 0 ∧ closed b f ∧
      if decide (n.swing ≠ .off) ≠ ps.assumedSwingOn then f = theConfig.coolix.swingFrame
      else ∃ g, f = finish b g ∧
        if b.tempModes n.mode then
          agreesOutside [(p.byte, p.mask <<< p.shift)] ctrl g ∧
          ∃ e, theConfig.coolix.table.entries[((n.temp - b.tempMin) / 2).toNat]? = some e ∧
            fieldBits p g = e <<< p.shift
        else g = ctrl

/-- R360, R362, R363: the power-toggle field is set exactly when the wanted power differs from PS.assumed_power_on; the frame
is sent as one message with dividers. -/
def Obligations.GenerateWhirlpool : Prop :=
  ∀ (cmd : ClimateCommand) (s : State) (ps : ProtocolState) (fa : Facade), fa = ⟨.whirlpool, ps⟩ → s.facade = some fa →
    let b := theConfig.whirlpool.base
    let p := theConfig.whirlpool.power
    let n := normalise b cmd
    ∃ (t : State) (g f : List Byte), exec (.generateWhirlpool cmd) s = .next t ∧
      Accepted s t fa cmd n (planSplit b f) ∧
      f = finish b g ∧ f.length = b.frameLen 0 ∧ closed b f ∧
      agreesOutside [(p.byte, p.mask <<< p.shift)] (theConfig.whirlpool.ctrl n fa.view) g ∧
      fieldBits p g =
        if decide (n.mode ≠ .off) ≠ ps.assumedPowerOn then theConfig.whirlpool.powerValue <<< p.shift else 0

/-- R371: one frame, sent twice. -/
def Obligations.GenerateToshibaGeneric : Prop :=
  ∀ (cmd : ClimateCommand) (s : State) (ps : ProtocolState) (fa : Facade), fa = ⟨.toshibaGeneric, ps⟩ →
    s.facade = some fa →
    let b := theConfig.toshibaGeneric.base
    let n := normalise b cmd
    ∃ (t : State) (f : List Byte), exec (.generateToshibaGeneric cmd) s = .next t ∧
      Accepted s t fa cmd n
        [⟨some (b.timing.headerMark, b.timing.headerSpace), bitsOfBytes b.bitOrder f, .markGap b.plan.repMark b.plan.repGap⟩,
         ⟨some (b.timing.headerMark, b.timing.headerSpace), bitsOfBytes b.bitOrder f, b.timing.trailer⟩] ∧
      f = finish b (theConfig.toshibaGeneric.ctrl n fa.view) ∧ f.length = b.frameLen 0 ∧ closed b f

/-- R372, R373, R397: the swing-toggle message alone when the wanted swing differs from PS.assumed_swing_on, else the two
packets; whichever it is, its blocks are sent twice, the toggle being decided once. That the frames of the toggle message have
the packets' length is the model's reading (log 23). -/
def Obligations.GenerateToshibaRas2819t : Prop :=
  ∀ (cmd : ClimateCommand) (s : State) (ps : ProtocolState) (fa : Facade), fa = ⟨.toshibaRas2819t, ps⟩ →
    s.facade = some fa →
    let b := theConfig.ras2819t.base
    let n := normalise b cmd
    let block := fun (f : List Byte) (tail : Trailer) =>
      Segment.mk (some (b.timing.headerMark, b.timing.headerSpace)) (bitsOfBytes b.bitOrder f) tail
    let gap := Trailer.markGap b.plan.blockMark b.plan.blockGap
    let rep := Trailer.markGap b.plan.repMark b.plan.repGap
    ∃ (t : State) (fs : List (List Byte)), exec (.generateToshibaRas2819t cmd) s = .next t ∧
      (match fs with
        | [f] => Accepted s t fa cmd n [block f rep, block f b.timing.trailer]
        | [f, g] =>
          Accepted s t fa cmd n [block f gap, block g rep, block f gap, block g b.timing.trailer]
        | _ => False) ∧
      (∀ f ∈ fs, f.length = b.frameLen 0 ∧ closed b f) ∧
      if decide (n.swing ≠ .off) ≠ ps.assumedSwingOn then fs = theConfig.ras2819t.swingToggle
      else fs = [finish b (theConfig.ras2819t.ctrl n fa.view).1, finish b (theConfig.ras2819t.ctrl n fa.view).2]

/-- R374: a main block, with the table entry in its temperature field in the modes that carry the temperature, and a swing
block, for every command; the message is sent `plan.copies` times. The swing block carries absolute state: it is the same
whatever swing is assumed. That the two blocks may have two lengths is the model's choice (log 39). -/
def Obligations.GenerateToshibaRacPt1411hwru : Prop :=
  ∀ (cmd : ClimateCommand) (s : State) (ps : ProtocolState) (fa : Facade), fa = ⟨.toshibaRacPt1411hwru, ps⟩ →
    s.facade = some fa →
    let b := theConfig.racPt.base
    let p := theConfig.racPt.table.field
    let n := normalise b cmd
    let ctrl := theConfig.racPt.mainCtrl n fa.view
    ∃ (t : State) (g f h : List Byte), exec (.generateToshibaRacPt1411hwru cmd) s = .next t ∧
      Accepted s t fa cmd n (planRepeat b b.plan.copies
        [⟨some (b.timing.headerMark, b.timing.headerSpace), bitsOfBytes b.bitOrder f,
           .markGap b.plan.blockMark b.plan.blockGap⟩,
         ⟨some (b.timing.headerMark, b.timing.headerSpace), bitsOfBytes b.bitOrder h, b.timing.trailer⟩]) ∧
      f = finish b g ∧ h = finish b (theConfig.racPt.swingCtrl n fa.view) ∧
      (∀ assumed, h = finish b (theConfig.racPt.swingCtrl n { fa.view with assumedSwingOn := assumed })) ∧
      f.length = b.frameLen 0 ∧
      h.length = b.frameLen 1 ∧ closed b f ∧ closed b h ∧
      if b.tempModes n.mode then
        agreesOutside [(p.byte, p.mask <<< p.shift)] ctrl g ∧
        ∃ e, theConfig.racPt.table.entries[((n.temp - b.tempMin) / 2).toNat]? = some e ∧
          fieldBits p g = e <<< p.shift
      else g = ctrl

/-- R380: three blocks, each closed on its own, each with its own header, the message space between them. -/
def Obligations.GenerateDaikin : Prop :=
  ∀ (cmd : ClimateCommand) (s : State) (ps : ProtocolState) (fa : Facade), fa = ⟨.daikin, ps⟩ → s.facade = some fa →
    let b := theConfig.daikin.base
    let n := normalise b cmd
    let block := fun (f : List Byte) (tail : Trailer) =>
      Segment.mk (some (b.timing.headerMark, b.timing.headerSpace)) (bitsOfBytes b.bitOrder f) tail
    let gap := Trailer.markGap b.plan.blockMark b.plan.blockGap
    ∃ (t : State) (f0 f1 f2 : List Byte), exec (.generateDaikin cmd) s = .next t ∧
      Accepted s t fa cmd n [block f0 gap, block f1 gap, block f2 b.timing.trailer] ∧
      f0 = finish b (theConfig.daikin.block0 n fa.view) ∧ f1 = finish b (theConfig.daikin.block1 n fa.view) ∧
      f2 = finish b (theConfig.daikin.block2 n fa.view) ∧
      f0.length = b.frameLen 0 ∧ f1.length = b.frameLen 1 ∧ f2.length = b.frameLen 2 ∧
      closed b f0 ∧ closed b f1 ∧ closed b f2

/-- R390: in the emitted frame every odd byte from index 3 on is the complement of its predecessor; the other bytes are the
control function's, but for the checksum. That the checksum step leaves the pairs as they are is the model's reading of R391
(log 21); which bits hold the checksum of a `custom` kind is the model's choice (log 18). -/
def Obligations.GenerateHitachi : Prop :=
  ∀ (cmd : ClimateCommand) (s : State) (ps : ProtocolState) (fa : Facade), fa = ⟨.hitachi, ps⟩ → s.facade = some fa →
    let b := theConfig.hitachi.base
    let n := normalise b cmd
    let ctrl := theConfig.hitachi.ctrl n fa.view
    ∃ (t : State) (f : List Byte), exec (.generateHitachi cmd) s = .next t ∧
      Accepted s t fa cmd n
        [⟨some (b.timing.headerMark, b.timing.headerSpace), bitsOfBytes b.bitOrder f, b.timing.trailer⟩] ∧
      f.length = b.frameLen 0 ∧ closed b f ∧
      (∀ i, i % 2 = 1 → 3 ≤ i → i < f.length → f.getD i 0 = f.getD (i - 1) 0 ^^^ 0xFF) ∧
      agreesOutside (checksumBits b f.length ++ ((List.range f.length).filter fun i => i % 2 = 1 ∧ 3 ≤ i).map
        fun i => (i, 0xFF)) ctrl f

/-- R146: GENERATE while BOUND = 0 answers NOT_BOUND, changes no state and emits nothing. -/
def Obligations.UnboundGenerateAnswersNotBound : Prop :=
  ∀ (cmd : ClimateCommand) (s : State), s.facade = none →
    decode s.binding (encode (.generateUnbound cmd)) = .generateUnbound cmd ∧
    exec (.generateUnbound cmd) s = .next { s with rsp := some ⟨.notBound, 0⟩, cmd := none, norm := none, fb := none }

/-! ### GENERATE over all brands -/

/-- R435, R109, R201, R203: a GENERATE on a bound instance ends OK and emits a non-empty sequence of positive durations, of at
most 2076 durations a copy; over every well-formed configuration, of at most PS_MAX when the brand bound is registered. PS_MAX is
2076 times the largest copy count of a registered brand. That a count beyond 32 bits would be answered modulo 2^32 is the model's choice (log 38). -/
def Obligations.BoundGenerateEmits : Prop :=
  (∀ (cmd : ClimateCommand) (s : State) (fa : Facade), s.facade = some fa →
    ∃ t, exec (fa.target.generate cmd) s = .next t ∧ t.rsp = some ⟨.ok, BitVec.ofNat 32 t.pq.length⟩ ∧ t.pq ≠ [] ∧
      (∀ d ∈ t.pq, d ≠ 0) ∧ t.pq.length ≤ (theConfig.desc fa.target).plan.copies * 2076) ∧
  (∀ (c : Configuration) (cmd : ClimateCommand) (s : State) (fa : Facade), c.WellFormed →
    c.registered fa.target.brand = true → s.facade = some fa →
    (generate c (builderOf c fa.target) cmd s).pq.length ≤ psMax c) ∧
  ∀ c : Configuration,
    (∀ tgt : Target, c.registered tgt.brand = true → (c.desc tgt).plan.copies * 2076 ≤ psMax c) ∧
    (psMax c = 0 ∨ ∃ tgt : Target, c.registered tgt.brand = true ∧ psMax c = (c.desc tgt).plan.copies * 2076)

/-- R201: in the sequence a GENERATE emits, marks and spaces strictly alternate, the first is a mark, and no duration is
0. -/
def Obligations.DurationsAlternate : Prop :=
  ∀ (cmd : ClimateCommand) (s : State) (fa : Facade), s.facade = some fa →
    ∃ (t : State) (ps : List Pulse), exec (fa.target.generate cmd) s = .next t ∧ t.pq = ps.map Pulse.dur ∧
      ps = planPulses (theConfig.desc fa.target).timing
        (builderOf theConfig fa.target (normalise (theConfig.desc fa.target) cmd) fa.view).plan ∧
      alternates ps ∧ ∀ p ∈ ps, p.dur ≠ 0

/-- R225, R335: over every well-formed configuration, recomputing the checksum over an emitted frame without its checksum
reproduces it, in the byte form and in LG's nibble form. -/
def Obligations.EmittedFramesAreClosed : Prop :=
  ∀ (c : Configuration) (tgt : Target) (n : NormCmd) (v : PsView), c.WellFormed → n.ValidFor (c.desc tgt) →
    ∀ f : Frame, f ∈ (builderOf c tgt n v).frames →
      match f with
      | .bytes bs =>
        ((c.desc tgt).checksumKind = .sum8 →
          ∃ x, bs.getLast? = some x ∧ x.toNat = (bs.dropLast.map BitVec.toNat).sum % 256) ∧
        ((c.desc tgt).checksumKind = .xor8 → ∃ x, bs.getLast? = some x ∧ x = bs.dropLast.foldl (· ^^^ ·) 0)
      | .word _ w => tgt = .lg → nibble w 0 = nibsum (w &&& ~~~0xF)

/-- R68, R69 (a): over every well-formed configuration a builder makes one to three frames of its brand's fixed lengths, and
the bits of its plan are the bits of those frames in order, once a copy. -/
def Obligations.FramesAreSentWholeAndInOrder : Prop :=
  ∀ (c : Configuration) (tgt : Target) (n : NormCmd) (v : PsView), c.WellFormed → n.ValidFor (c.desc tgt) →
    v.modelVariant = tgt.variant →
    let d := c.desc tgt
    let b := builderOf c tgt n v
    1 ≤ b.frames.length ∧ b.frames.length ≤ 3 ∧
    (∀ (k : Nat) (f : Frame), b.frames[k]? = some f →
      match f with
      | .bytes bs => bs.length = d.frameLen k ∧ 4 ≤ bs.length ∧ bs.length ≤ 43
      | .word m w => d.extent = .bits m ∧ m ≤ 32 ∧ w.toNat < 2 ^ m) ∧
    ∃ copies, 1 ≤ copies ∧ copies ≤ d.plan.copies ∧
      b.plan.flatMap Segment.bits = (List.replicate copies (b.frames.flatMap (frameBits d.bitOrder))).flatten

/-- R156: the same GENERATE word on two instances with the same binding and equal PS yields the same sequence and the same
next PS. -/
def Obligations.GenerateIsDeterministic : Prop :=
  ∀ (cw : Word) (s u : State) (fa : Facade), opField cw = 2 → s.facade = some fa → u.facade = some fa →
    ∃ s' u', exec (decode s.binding cw) s = .next s' ∧ exec (decode u.binding cw) u = .next u' ∧ s'.pq = u'.pq ∧
      s'.facade = u'.facade ∧ s'.rsp = u'.rsp ∧ s'.diag = u'.diag

/-- R32: over every well-formed configuration, a PS field that a brand does not use shows in no frame and in no duration. -/
def Obligations.UnusedStateNeverShows : Prop :=
  ∀ (c : Configuration) (tgt : Target) (n : NormCmd) (v w : PsView), c.WellFormed → n.ValidFor (c.desc tgt) →
    v.modelVariant = tgt.variant → w.modelVariant = tgt.variant → agreeOn (c.desc tgt).uses v w →
    builderOf c tgt n v = builderOf c tgt n w

/-- R355: from fresh state Vertical emits the toggle frame and leaves assumed_swing_on = 1; the same command again emits the
normal frame and leaves 1; Off then emits the toggle frame and leaves 0. Off on fresh state emits the normal frame. -/
def Obligations.CoolixSwingSequence : Prop :=
  ∀ (s : State) (cmd off : ClimateCommand), s.facade = some ⟨.coolix, ProtocolState.fresh⟩ → cmd.swing = 1 → off.swing = 0 →
    let b := theConfig.coolix.base
    ∃ (t1 t2 t3 t4 : State) (p1 p2 p3 : ProtocolState),
      exec (.generateCoolix cmd) s = .next t1 ∧ exec (.generateCoolix cmd) t1 = .next t2 ∧
      exec (.generateCoolix off) t2 = .next t3 ∧
      t1.pq = ser b.timing (planSingle b (.bytes theConfig.coolix.swingFrame)) ∧
      t1.facade = some ⟨.coolix, p1⟩ ∧ p1.assumedSwingOn = true ∧
      t2.pq = ser b.timing (planSingle b (.bytes (coolixNormal theConfig (normalise b cmd) (Facade.view ⟨.coolix, p1⟩)))) ∧
      t2.facade = some ⟨.coolix, p2⟩ ∧ p2.assumedSwingOn = true ∧
      t3.pq = ser b.timing (planSingle b (.bytes theConfig.coolix.swingFrame)) ∧
      t3.facade = some ⟨.coolix, p3⟩ ∧ p3.assumedSwingOn = false ∧
      exec (.generateCoolix off) s = .next t4 ∧
      t4.pq = ser b.timing (planSingle b (.bytes (coolixNormal theConfig (normalise b off) (freshView 0))))

/-- R362: from fresh state a command in a mode other than Off sets the power-toggle field, the same command at once again does
not, and Off afterwards sets it again; a command that normalises to Off sets it in none of the three. The frames `g1` to `g3`
are those before the checksum step, which comes last (R260); but for the field they are what the control function returns for
the command and the state of before it. In the frames emitted the field is the same when it holds no bit of the checksum. Which bits hold the checksum of a `custom` kind is the model's choice (log 18). -/
def Obligations.WhirlpoolPowerSequence : Prop :=
  ∀ (s : State) (cmd off : ClimateCommand), s.facade = some ⟨.whirlpool, ProtocolState.fresh⟩ → off.mode = 0 →
    let b := theConfig.whirlpool.base
    let p := theConfig.whirlpool.power
    let toggle := if (normalise b cmd).mode = .off then 0 else theConfig.whirlpool.powerValue <<< p.shift
    let ctrl := theConfig.whirlpool.ctrl
    ∃ (t1 t2 t3 : State) (p1 p2 : ProtocolState) (g1 g2 g3 f1 f2 f3 : List Byte),
      exec (.generateWhirlpool cmd) s = .next t1 ∧ exec (.generateWhirlpool cmd) t1 = .next t2 ∧
      exec (.generateWhirlpool off) t2 = .next t3 ∧
      t1.pq = ser b.timing (planSplit b f1) ∧ t2.pq = ser b.timing (planSplit b f2) ∧
      t3.pq = ser b.timing (planSplit b f3) ∧
      t1.facade = some ⟨.whirlpool, p1⟩ ∧ t2.facade = some ⟨.whirlpool, p2⟩ ∧
      f1 = finish b g1 ∧ f2 = finish b g2 ∧ f3 = finish b g3 ∧
      agreesOutside [(p.byte, p.mask <<< p.shift)] (ctrl (normalise b cmd) (freshView 0)) g1 ∧
      agreesOutside [(p.byte, p.mask <<< p.shift)] (ctrl (normalise b cmd) (Facade.view ⟨.whirlpool, p1⟩)) g2 ∧
      agreesOutside [(p.byte, p.mask <<< p.shift)] (ctrl (normalise b off) (Facade.view ⟨.whirlpool, p2⟩)) g3 ∧
      fieldBits p g1 = toggle ∧ fieldBits p g2 = 0 ∧ fieldBits p g3 = toggle ∧
      (clearOfChecksum b (b.frameLen 0) p → fieldBits p f1 = toggle ∧ fieldBits p f2 = 0 ∧ fieldBits p f3 = toggle)

/-- R272 and scenario 1 of spec/95_test_vectors.md, over every well-formed configuration whose LG supports Cool, High and 24
degrees: `GEN Cool, 24, High, Off` on fresh state emits a word with top nibble 8, temperature nibble 9 and the nibble sum; the
four bits of its container that are not sent are 0. -/
def Obligations.LgScenarioOne : Prop :=
  ∀ (c : Configuration) (s : State), c.WellFormed → c.lg.base.supportedModes .cool = true →
    c.lg.base.supportedFans .high = true → c.lg.base.tempMin ≤ 48 → 48 ≤ c.lg.base.tempMax →
    s.facade = some ⟨.lg, ProtocolState.fresh⟩ →
    ∃ w : Word, (generate c (buildLg c) ⟨2, 3, 0, 48⟩ s).pq = ser c.lg.base.timing (planSingle c.lg.base (.word 28 w)) ∧
      w.extractLsb' 28 4 = 0 ∧ w.extractLsb' 24 4 = 8 ∧ w.extractLsb' 8 4 = 9 ∧ nibble w 0 = nibsum (w &&& ~~~0xF)

/-! ### QUERY and the reserved operations -/

/-- R160 to R165: the capability queries of a bound instance answer the fields of its descriptor and change no register. That
the bounds fit their 16-bit registers is deduced from R37 (log 3). -/
def Obligations.CapabilityQueriesAnswer : Prop :=
  ∀ (s : State) (fa : Facade), s.facade = some fa →
    let d := theConfig.desc fa.target
    let answered := fun (w : Word) => { s with rsp := some ⟨.ok, w⟩, cmd := none, norm := none, fb := none }
    ∃ w0 w1 w2 w3 w4 w5 : Word,
      exec .queryTemperatureMin s = .next (answered w0) ∧ (w0.toNat : Int) = d.tempMin ∧
      exec .queryTemperatureMax s = .next (answered w1) ∧ (w1.toNat : Int) = d.tempMax ∧
      exec .queryTemperatureStep s = .next (answered w2) ∧ w2 = (if d.tempStep = .whole then 2 else 1) ∧
      exec .querySupportedHvacModes s = .next (answered w3) ∧
        (∀ m : Mode, w3.getLsbD m.code.toNat = d.supportedModes m) ∧ w3.toNat < 2 ^ 7 ∧ w3.getLsbD 0 = true ∧
      exec .querySupportedFanModes s = .next (answered w4) ∧
        (∀ f : FanSpeed, w4.getLsbD f.code.toNat = d.supportedFans f) ∧ w4.toNat < 2 ^ 5 ∧
      exec .querySupportedSwingModes s = .next (answered w5) ∧
        (∀ x : SwingSetting, w5.getLsbD x.code.toNat = d.supportedSwings x) ∧ w5.toNat < 2 ^ 4 ∧ w5.getLsbD 0 = true

/-- R166, R167: BRAND_LIST, STATUS, BINDING and ERR_INFO answer bound or unbound and change no register. -/
def Obligations.UnconditionalQueriesAnswer : Prop :=
  ∀ s : State,
    let answered := fun (w : Word) => { s with rsp := some ⟨.ok, w⟩, cmd := none, norm := none, fb := none }
    ∃ w6 w8 w9 : Word,
      exec .queryBrandList s = .next (answered w6) ∧
        (∀ i, i < 32 → (w6.getLsbD i = true ↔ ∃ b, registry theConfig (BitVec.ofNat 8 i) = some b)) ∧
      exec .queryStatus s = .next (answered w8) ∧
        w8.toNat = (if s.boundBit then 1 else 0) + (if s.err then 2 else 0) + (if s.diag.clamped then 4 else 0) +
          (if s.diag.defaulted then 8 else 0) + (if s.diag.ignored then 16 else 0) ∧
      exec .queryBinding s = .next (answered w9) ∧ w9.toNat = s.variantReg.toNat * 256 + s.brandReg.toNat ∧
      exec .queryErrInfo s = .next (answered s.errInfo)

/-- R168, R39: the debug readback of a bound instance answers PS and SEQ and changes no register. -/
def Obligations.ProtocolStateQueriesAnswer : Prop :=
  ∀ (s : State) (fa : Facade), s.facade = some fa →
    let answered := fun (w : Word) => { s with rsp := some ⟨.ok, w⟩, cmd := none, norm := none, fb := none }
    ∃ w10 w11 w12 : Word,
      exec .queryPsFlags s = .next (answered w10) ∧
        w10.toNat = (if fa.ps.assumedPowerOn then 1 else 0) + (if fa.ps.assumedSwingOn then 2 else 0) +
          (if fa.ps.previous.isSome then 4 else 0) ∧
      exec .queryPrevTemp s = .next (answered w11) ∧
        w11.toNat = (match fa.ps.previous with | none => 0 | some p => p.temperature.toNat) ∧
      exec .queryPrevMode s = .next (answered w12) ∧
        w12.toNat = (match fa.ps.previous with | none => 0 | some p => p.mode.code.toNat) ∧
      exec .queryModeTrans s = .next (answered fa.ps.modeTransitionBits) ∧
      exec .querySeq s = .next (answered s.seq)

/-- R146: GENERATE, and a QUERY whose selector needs a binding, answer NOT_BOUND while BOUND = 0, change no state and emit
nothing. -/
def Obligations.UnboundCommandsAnswerNotBound : Prop :=
  ∀ (s : State) (cmd : ClimateCommand) (i : Instr), s.facade = none →
    i ∈ [.generateUnbound cmd, .queryTemperatureMin, .queryTemperatureMax, .queryTemperatureStep, .querySupportedHvacModes,
      .querySupportedFanModes, .querySupportedSwingModes, .queryPsFlags, .queryPrevTemp, .queryPrevMode, .queryModeTrans,
      .querySeq] →
    exec i s = .next { s with rsp := some ⟨.notBound, 0⟩, cmd := none, norm := none, fb := none }

/-- R102, R104, R419: a reserved operation and the reserved selector answer ILLEGAL_OP, bound or not, change no state and emit
nothing. -/
def Obligations.ReservedEncodingsChangeNothing : Prop :=
  ∀ (s : State) (i : Instr),
    i ∈ [.queryReservedSelector, .reservedOp0, .reservedOp5, .reservedOp6, .reservedOp7, .reservedOp8, .reservedOp9,
      .reservedOpA, .reservedOpB, .reservedOpC, .reservedOpD, .reservedOpE, .reservedOpF] →
    exec i s = .next { s with rsp := some ⟨.illegalOp, 0⟩, cmd := none, norm := none, fb := none }

/-! ### Arithmetic and serialisation -/

/-- R194, R196, R202: the durations of a segment, place by place (the header pair; for each bit the bit mark, then the space
that tells it; the tail), and how many there are; the sequence of a plan as the concatenation of its segments; and the plans
whose sequence has odd length. -/
def Obligations.SerialisedSegmentsAndPlans : Prop :=
  (∀ (tp : TimingProfile) (s : Segment),
    let start := if s.hdr.isSome then 2 else 0
    let stop := start + 2 * s.bits.length
    (∀ m g, s.hdr = some (m, g) → (serSeg tp s)[0]? = some m ∧ (serSeg tp s)[1]? = some g) ∧
    (∀ i, (h : i < s.bits.length) → (serSeg tp s)[start + 2 * i]? = some tp.bitMark ∧
      (serSeg tp s)[start + 2 * i + 1]? = some (if s.bits[i] then tp.oneSpace else tp.zeroSpace)) ∧
    (∀ m, s.tail = .mark m → (serSeg tp s)[stop]? = some m) ∧
    (∀ m g, s.tail = .markGap m g → (serSeg tp s)[stop]? = some m ∧ (serSeg tp s)[stop + 1]? = some g)) ∧
  (∀ (tp : TimingProfile) (s : Segment), (serSeg tp s).length = (if s.hdr.isSome then 2 else 0) + 2 * s.bits.length +
    (match s.tail with | .none => 0 | .mark _ => 1 | .markGap _ _ => 2)) ∧
  (∀ (tp : TimingProfile) (p q : Plan), ser tp (p ++ q) = ser tp p ++ ser tp q) ∧
  (∀ (tp : TimingProfile) (s : Segment), ser tp [s] = serSeg tp s) ∧
  (∀ (tp : TimingProfile) (p : Plan), planWellFormed p →
    ((ser tp p).length % 2 = 1 ↔ ∃ s ∈ p.getLast?, ∃ m, s.tail = .mark m))

/-- R221, R222, R227, R228: the sum modulo 256, the exclusive or, the reversal of a byte and the inversion of byte pairs. -/
def Obligations.ByteArithmetic : Prop :=
  (∀ bs : List Byte, (sum8 bs).toNat = (bs.map BitVec.toNat).sum % 256) ∧
  (∀ (bs : List Byte) (b : Byte), xor8 (bs ++ [b]) = xor8 bs ^^^ b) ∧ xor8 [] = 0 ∧
  (∀ v : Byte, rev8 (rev8 v) = v ∧ ∀ i, i < 8 → (rev8 v).getLsbD i = v.getLsbD (7 - i)) ∧
  (∀ (f : List Byte) (first i : Nat), i < f.length →
    (invertPairs f first).getD i 0 = if i % 2 = 1 ∧ first ≤ i then f.getD (i - 1) 0 ^^^ 0xFF else f.getD i 0) ∧
  (∀ (f : List Byte) (first : Nat), (invertPairs f first).length = f.length)

/-- R199, R200: a split plan has one segment more than there are split counts, carries the frame's bits in order, cut where
the counts say, and has a header on the first segment only; a repeated plan is the plan's copies with the repeat gap at the end of all but the last. -/
def Obligations.SplitAndRepeatedPlans : Prop :=
  (∀ (d : Descriptor) (f : List Byte), splitsOk d.plan.splits f.length →
    (planSplit d f).length = d.plan.splits.length + 1 ∧
    (planSplit d f).flatMap Segment.bits = bitsOfBytes d.bitOrder f ∧
    (∀ i, (h : i < d.plan.splits.length) →
      ((planSplit d f).take (i + 1)).flatMap Segment.bits = bitsOfBytes d.bitOrder (f.take d.plan.splits[i])) ∧
    (∀ s ∈ (planSplit d f).head?, s.hdr = some (d.timing.headerMark, d.timing.headerSpace)) ∧
    (∀ s ∈ (planSplit d f).tail, s.hdr = none) ∧
    (∀ s ∈ (planSplit d f).dropLast, s.tail = .markGap d.plan.divMark d.plan.divGap) ∧
    (∀ s ∈ (planSplit d f).getLast?, s.tail = d.timing.trailer)) ∧
  (∀ (d : Descriptor) (n : Nat) (p : Plan) (s : Segment),
    planRepeat d (n + 1) (p ++ [s]) =
      (List.replicate n (p ++ [{ s with tail := .markGap d.plan.repMark d.plan.repGap }])).flatten ++ (p ++ [s]))

/-- R65 to R67, R195: a byte gives 8 bits, bit 0 first under LSBFirst and bit 7 first under MSBFirst; bytes go in ascending
index under either order; a word of `n` bits is one unit, bit 0 first or bit `n - 1` first. -/
def Obligations.BitsLeaveInTheirOrder : Prop :=
  (∀ v : Byte, (∀ o, (bitsOfByte o v).length = 8) ∧
    ∀ i, i < 8 → (bitsOfByte .lsbFirst v)[i]? = some (v.getLsbD i) ∧
      (bitsOfByte .msbFirst v)[i]? = some (v.getLsbD (7 - i))) ∧
  (∀ (o : BitOrder) (bs : List Byte), (bitsOfBytes o bs).length = 8 * bs.length ∧ frameBits o (.bytes bs) = bitsOfBytes o bs ∧
    ∀ k i, (h : k < bs.length) → i < 8 → (bitsOfBytes o bs)[8 * k + i]? = (bitsOfByte o bs[k])[i]?) ∧
  (∀ (n : Nat) (w : Word), (∀ o, (bitsOfWord o n w).length = n ∧ frameBits o (.word n w) = bitsOfWord o n w) ∧
    ∀ i, i < n → (bitsOfWord .lsbFirst n w)[i]? = some (w.getLsbD i) ∧
      (bitsOfWord .msbFirst n w)[i]? = some (w.getLsbD (n - 1 - i)))
end

