-- ==== Sys2Proof/Laws/Frames.lean ====
section
/-! SUPPORT. What the operations on frame bytes do: `put`, `invertPairs`, `finish`, and the step of the lookup-table brands
(spec/42_checksum_tables.md). -/

namespace Sys2Proof.Machine

/-! ### maskAt -/

theorem maskAt_nil (i : Nat) : maskAt [] i = 0 := rfl

theorem maskAt_foldl (ps : List (Nat × Byte)) (i : Nat) (m : Byte) :
    ps.foldl (fun m p => if p.1 = i then m ||| p.2 else m) m = m ||| maskAt ps i := by
  unfold maskAt
  induction ps generalizing m with
  | nil => simp
  | cons p ps ih =>
    simp only [List.foldl_cons]
    rw [ih, ih (if p.1 = i then 0 ||| p.2 else 0)]
    split <;> simp [BitVec.or_assoc]

theorem maskAt_cons (p : Nat × Byte) (ps : List (Nat × Byte)) (i : Nat) :
    maskAt (p :: ps) i = (if p.1 = i then p.2 else 0) ||| maskAt ps i := by
  unfold maskAt
  rw [List.foldl_cons, maskAt_foldl]
  unfold maskAt
  split <;> simp

theorem maskAt_append (ps qs : List (Nat × Byte)) (i : Nat) : maskAt (ps ++ qs) i = maskAt ps i ||| maskAt qs i := by
  induction ps with
  | nil => simp [maskAt_nil]
  | cons p ps ih => simp [maskAt_cons, ih, BitVec.or_assoc]

/-- A byte whose listed positions are all clear is clear under the mask. -/
theorem and_maskAt_of_forall (x : Byte) (ps : List (Nat × Byte)) (i : Nat) (h : ∀ p ∈ ps, p.1 = i → p.2 &&& x = 0) :
    maskAt ps i &&& x = 0 := by
  induction ps with
  | nil => simp [maskAt_nil]
  | cons p ps ih =>
    have h1 := ih fun q hq => h q (by simp [hq])
    have h2 := h p (by simp)
    rw [maskAt_cons]
    split
    · rename_i e
      have h3 := h2 e
      ext j hj
      have e1 := congrArg (fun z : Byte => z.getLsbD j) h1
      have e3 := congrArg (fun z : Byte => z.getLsbD j) h3
      simp [BitVec.getLsbD_eq_getElem hj] at e1 e3 ⊢
      cases hx : x[j] <;> simp_all
    · simpa using h1

/-! ### agreesOutside -/

theorem agreesOutside_refl (ps : List (Nat × Byte)) (f : List Byte) : agreesOutside ps f f := ⟨rfl, fun _ => rfl⟩

/-- With no position written a frame is what the control function returned. -/
theorem eq_of_agreesOutside_nil (ctrl f : List Byte) (h : agreesOutside [] ctrl f) : f = ctrl := by
  refine List.ext_getElem h.1 fun i h1 h2 => ?_
  have e : ∀ x : Byte, x &&& ~~~(0 : Byte) = x := fun x => BitVec.and_allOnes
  have := h.2 i
  rw [maskAt_nil, e, e] at this
  simpa [List.getD_eq_getElem?_getD, h1, h2] using this

/-- Two writes, one after the other. -/
theorem agreesOutside_trans {ps qs : List (Nat × Byte)} {f g h : List Byte} (h1 : agreesOutside ps f g)
    (h2 : agreesOutside qs g h) : agreesOutside (ps ++ qs) f h := by
  refine ⟨h2.1.trans h1.1, fun i => ?_⟩
  have e1 := h1.2 i
  have e2 := h2.2 i
  rw [maskAt_append]
  refine BitVec.eq_of_getLsbD_eq fun j hj => ?_
  have a1 := congrArg (fun z : Byte => z.getLsbD j) e1
  have a2 := congrArg (fun z : Byte => z.getLsbD j) e2
  simp only [BitVec.getLsbD_and, BitVec.getLsbD_not, BitVec.getLsbD_or, hj, decide_true, Bool.true_and] at a1 a2 ⊢
  cases hp : (maskAt ps i).getLsbD j <;> cases hq : (maskAt qs i).getLsbD j <;> simp_all

/-! ### put -/

@[simp] theorem put_length (f : List Byte) (i shift : Nat) (mask val : Byte) : (put f i shift mask val).length = f.length := by
  simp [put]

/-- One byte after `put`. -/
theorem put_getD (f : List Byte) (i shift : Nat) (mask val : Byte) (j : Nat) :
    (put f i shift mask val).getD j 0 =
      if i = j ∧ j < f.length then putByte (f.getD j 0) shift mask val else f.getD j 0 := by
  simp only [put, List.getD_eq_getElem?_getD, List.getElem?_modify]
  by_cases hj : j < f.length
  · by_cases hi : i = j <;> simp [hi, hj]
  · simp [hj]

/-- A written field reads as the value written, cut to the mask (R232). -/
theorem putByte_field (b : Byte) (shift : Nat) (mask val : Byte) :
    putByte b shift mask val &&& (mask <<< shift) = (val &&& mask) <<< shift := by
  unfold putByte
  ext j hj
  simp only [BitVec.getElem_and, BitVec.getElem_or, BitVec.getElem_not, BitVec.getElem_shiftLeft]
  by_cases h : j < shift
  · simp [h]
  · simp only [h, decide_false, Bool.not_false, Bool.true_and]
    cases b[j] <;> cases mask[j - shift] <;> cases val[j - shift] <;> rfl

/-- The bits outside a written field stay (R232). -/
theorem putByte_rest (b : Byte) (shift : Nat) (mask val : Byte) :
    putByte b shift mask val &&& ~~~(mask <<< shift) = b &&& ~~~(mask <<< shift) := by
  unfold putByte
  ext j hj
  simp only [BitVec.getElem_and, BitVec.getElem_or, BitVec.getElem_not, BitVec.getElem_shiftLeft]
  by_cases h : j < shift
  · simp [h]
  · simp only [h, decide_false, Bool.not_false, Bool.true_and]
    cases b[j] <;> cases mask[j - shift] <;> cases val[j - shift] <;> rfl

/-- `put` writes its field and nothing else (R232). -/
theorem agreesOutside_put (f : List Byte) (i shift : Nat) (mask val : Byte) :
    agreesOutside [(i, mask <<< shift)] f (put f i shift mask val) := by
  refine ⟨put_length .., fun j => ?_⟩
  rw [put_getD, maskAt_cons, maskAt_nil]
  split
  · rename_i h
    simp only [h.1, if_true, BitVec.ofNat_eq_ofNat, BitVec.or_zero]
    exact putByte_rest ..
  · rfl

/-- The field that `put` wrote (R232). -/
theorem fieldBits_putField (f : List Byte) (p : FieldPos) (val : Byte) (h : p.byte < f.length) :
    fieldBits p (putField f p val) = (val &&& p.mask) <<< p.shift := by
  unfold fieldBits putField
  rw [put_getD, if_pos ⟨rfl, h⟩, putByte_field]

/-- `putField` writes its field and nothing else (R232). -/
theorem agreesOutside_putField (f : List Byte) (p : FieldPos) (val : Byte) :
    agreesOutside [(p.byte, p.mask <<< p.shift)] f (putField f p val) := agreesOutside_put ..

/-! ### finish -/

theorem setTrailing_length (sum : List Byte → Byte) (f : List Byte) : (setTrailing sum f).length = f.length := by
  simp [setTrailing]

/-- The checksum step keeps the length of a frame (R237). -/
@[simp] theorem finish_length (d : Descriptor) (hd : d.WellFormed) (f : List Byte) : (finish d f).length = f.length := by
  unfold finish
  split <;> simp [setTrailing_length, hd.finishLength]

/-- A trailing checksum is all that is written, and it is the sum of the other bytes (R224). -/
theorem setTrailing_spec (sum : List Byte → Byte) (f : List Byte) (h : f ≠ []) :
    body (setTrailing sum f) = body f ∧ (setTrailing sum f).getLast? = some (sum (body f)) := by
  obtain ⟨g, x, rfl⟩ := (List.eq_nil_or_concat f).resolve_left h
  simp [setTrailing, body]

/-- Checksum closure of the checksum step (R225). -/
theorem closed_finish (d : Descriptor) (f : List Byte) (h : f ≠ []) : closed d (finish d f) := by
  unfold closed finish
  cases hk : d.checksumKind <;> simp only
  · rw [(setTrailing_spec _ _ h).2, (setTrailing_spec _ _ h).1]
  · rw [(setTrailing_spec _ _ h).2, (setTrailing_spec _ _ h).1]

/-- The checksum step writes the checksum positions and nothing else (R224, R237). -/
theorem agreesOutside_finish (d : Descriptor) (hd : d.WellFormed) (f : List Byte) :
    agreesOutside (checksumBits d f.length) f (finish d f) := by
  refine ⟨finish_length d hd f, fun i => ?_⟩
  have trailing : ∀ sum : List Byte → Byte,
      (setTrailing sum f).getD i 0 &&& ~~~(maskAt [(f.length - 1, 0xFF)] i) =
        f.getD i 0 &&& ~~~(maskAt [(f.length - 1, 0xFF)] i) := by
    intro sum
    simp only [setTrailing, maskAt_cons, maskAt_nil, List.getD_eq_getElem?_getD, List.getElem?_set]
    by_cases h : f.length - 1 = i
    · simp [h]
    · simp [h]
  unfold finish checksumBits
  cases hk : d.checksumKind <;> simp only
  · exact trailing _
  · exact trailing _
  · have h := hd.finishMask f i
    by_cases hi : i < f.length
    · have : maskAt ((List.range f.length).map fun i => (i, d.checksumMask f.length i)) i = d.checksumMask f.length i := by
        have key : ∀ l : List Nat, l.Nodup → maskAt (l.map fun i => (i, d.checksumMask f.length i)) i =
            if i ∈ l then d.checksumMask f.length i else 0 := by
          intro l hl
          induction l with
          | nil => simp [maskAt_nil]
          | cons a l ih =>
            rw [List.map_cons, maskAt_cons, ih (List.nodup_cons.1 hl).2]
            have := (List.nodup_cons.1 hl).1
            by_cases ha : a = i
            · subst ha; simp [this]
            · simp [ha, Ne.symm ha]
        rw [key _ List.nodup_range, if_pos (List.mem_range.2 hi)]
      rw [this]; exact h
    · have h1 : (d.finish f).getD i 0 = 0 := by
        rw [List.getD_eq_default]; rw [hd.finishLength]; omega
      have h2 : f.getD i 0 = 0 := by
        rw [List.getD_eq_default]; omega
      rw [h1, h2]

/-- A field that is clear of the checksum is in the emitted frame as it was written (R110). -/
theorem fieldBits_finish (d : Descriptor) (hd : d.WellFormed) (f : List Byte) (p : FieldPos)
    (hp : clearOfChecksum d f.length p) : fieldBits p (finish d f) = fieldBits p f := by
  have h := (agreesOutside_finish d hd f).2 p.byte
  have hm : maskAt (checksumBits d f.length) p.byte &&& (p.mask <<< p.shift) = 0 :=
    and_maskAt_of_forall _ _ _ hp
  unfold fieldBits
  refine BitVec.eq_of_getLsbD_eq fun j hj => ?_
  have a := congrArg (fun z : Byte => z.getLsbD j) h
  have b := congrArg (fun z : Byte => z.getLsbD j) hm
  simp only [BitVec.getLsbD_and, BitVec.getLsbD_not, hj, decide_true, Bool.true_and, BitVec.ofNat_eq_ofNat,
    BitVec.getLsbD_zero] at a b ⊢
  cases h1 : (p.mask <<< p.shift).getLsbD j <;> cases h2 : (maskAt (checksumBits d f.length) p.byte).getLsbD j <;>
    simp_all

/-! ### The lookup-table step -/

/-- The index of the lookup is in range, and the entry fits its field (R230, R231, spec/20_memory.md R79). -/
theorem tempCode_spec (t : TempTable) (d : Descriptor) (len : Nat) (ht : t.WellFormed d len) (hd : d.WellFormed)
    (n : NormCmd) (hn : n.ValidFor d) :
    t.entries[((n.temp - d.tempMin) / 2).toNat]? = some (tempCode t.entries d.tempMin n.temp) ∧
    tempCode t.entries d.tempMin n.temp &&& t.field.mask = tempCode t.entries d.tempMin n.temp := by
  have h1 := hn.even ht.whole
  have h2 := (hd.evenBounds ht.whole).1
  have h3 := hn.low
  have h4 := hn.high
  have hl := ht.length
  have e : (floorHalf n.temp - floorHalf d.tempMin).toNat = ((n.temp - d.tempMin) / 2).toNat := by
    unfold floorHalf; congr 1; omega
  have hlt : ((n.temp - d.tempMin) / 2).toNat < t.entries.length := by omega
  have hx : t.entries[((n.temp - d.tempMin) / 2).toNat]? = some (tempCode t.entries d.tempMin n.temp) := by
    rw [tempCode, e, List.getD_eq_getElem?_getD, List.getElem?_eq_getElem hlt]; rfl
  exact ⟨hx, ht.fits _ (List.mem_of_getElem? hx)⟩

/-- The lookup-table step, whole (R254, R259 f): in the modes that carry the temperature it writes the table entry into its
field and nothing else; in the others it writes nothing. -/
theorem putTemp_spec (t : TempTable) (d : Descriptor) (len : Nat) (ht : t.WellFormed d len) (hd : d.WellFormed)
    (n : NormCmd) (hn : n.ValidFor d) (f : List Byte) (hf : f.length = len) :
    if d.tempModes n.mode then
      agreesOutside [(t.field.byte, t.field.mask <<< t.field.shift)] f (putTemp d t n f) ∧
      ∃ e, t.entries[((n.temp - d.tempMin) / 2).toNat]? = some e ∧
        fieldBits t.field (putTemp d t n f) = e <<< t.field.shift
    else putTemp d t n f = f := by
  unfold putTemp
  split
  · have hb : t.field.byte < f.length := hf ▸ ht.byte
    have hs := tempCode_spec t d len ht hd n hn
    refine ⟨agreesOutside_putField .., _, hs.1, ?_⟩
    rw [fieldBits_putField _ _ _ hb, hs.2]
  · rfl

theorem putTemp_length (t : TempTable) (d : Descriptor) (n : NormCmd) (f : List Byte) :
    (putTemp d t n f).length = f.length := by
  unfold putTemp putField
  split <;> simp

/-! ### Hitachi's inversion -/

@[simp] theorem invertPairs_length (f : List Byte) (first : Nat) : (invertPairs f first).length = f.length := by
  simp [invertPairs]

/-- One byte after the inversion (R228). -/
theorem invertPairs_getD (f : List Byte) (first i : Nat) (hi : i < f.length) :
    (invertPairs f first).getD i 0 = if i % 2 = 1 ∧ first ≤ i then inv8 (f.getD (i - 1) 0) else f.getD i 0 := by
  simp [invertPairs, hi]

/-! ### The byte sums -/

/-- `sum8` as a sum of numbers modulo 256 (R221). -/
theorem sum8_toNat (bs : List Byte) : (sum8 bs).toNat = (bs.map BitVec.toNat).sum % 256 := by
  have key : ∀ (bs : List Byte) (x : Byte), (bs.foldl (· + ·) x).toNat = (x.toNat + (bs.map BitVec.toNat).sum) % 256 := by
    intro bs
    induction bs with
    | nil => intro x; have := x.isLt; simp; omega
    | cons b bs ih => intro x; rw [List.foldl_cons, ih, BitVec.toNat_add]; simp; omega
  have := key bs 0
  simpa [sum8] using this

/-- `rev8` by bits (R227). -/
theorem rev8_getLsbD (v : Byte) (i : Nat) (hi : i < 8) : (rev8 v).getLsbD i = v.getLsbD (7 - i) := by
  rw [rev8, BitVec.getLsbD_ofFnLE]
  simp [hi]

end Sys2Proof.Machine
end

