-- ==== Sys2Proof/Laws/Normalise.lean ====
section
/-! SUPPORT. The enumeration codes, the Registry, and normalisation (spec/30_encoding.md R94 to R98, spec/40_facade_ops.md
R141, R142, R148 to R151). -/

namespace Sys2Proof

/-! ### Codes -/

/-- A mode code names exactly one mode (R94). -/
theorem modeOfCode_eq_some (m : BitVec 4) (x : Mode) : Mode.ofCode m = some x ↔ x.code = m := by
  constructor
  · intro h
    unfold Mode.ofCode at h
    split at h <;> first | (cases h; rename_i e; exact (BitVec.eq_of_toNat_eq e).symm) | cases h
  · rintro rfl
    cases x <;> rfl

/-- A fan code names exactly one fan speed (R95). -/
theorem fanOfCode_eq_some (f : BitVec 4) (x : FanSpeed) : FanSpeed.ofCode f = some x ↔ x.code = f := by
  constructor
  · intro h
    unfold FanSpeed.ofCode at h
    split at h <;> first | (cases h; rename_i e; exact (BitVec.eq_of_toNat_eq e).symm) | cases h
  · rintro rfl
    cases x <;> rfl

/-- A swing code names exactly one swing setting (R96). -/
theorem swingOfCode_eq_some (w : BitVec 4) (x : SwingSetting) : SwingSetting.ofCode w = some x ↔ x.code = w := by
  constructor
  · intro h
    unfold SwingSetting.ofCode at h
    split at h <;> first | (cases h; rename_i e; exact (BitVec.eq_of_toNat_eq e).symm) | cases h
  · rintro rfl
    cases x <;> rfl

/-- A brand code names exactly one brand (R97). -/
theorem brandOfCode_eq_some (code : BitVec 8) (b : Brand) : Brand.ofCode code = some b ↔ b.code = code := by
  constructor
  · intro h
    unfold Brand.ofCode at h
    split at h <;> first | (cases h; rename_i e; exact (BitVec.eq_of_toNat_eq e).symm) | cases h
  · rintro rfl
    cases b <;> rfl

/-! ### Targets -/

/-- The target of a brand has that brand (R98). -/
@[simp] theorem brand_targetOf (b : Brand) (v : BitVec 4) : (Target.of b v).brand = b := by
  cases b <;> try rfl
  simp only [Target.of]
  split <;> rfl

/-- A valid variant code is the variant of its target (R98). -/
theorem variant_targetOf (b : Brand) (v : BitVec 4) (h : v.toNat < b.variants) : (Target.of b v).variant = v := by
  have key : ∀ k : Nat, v.toNat = k → v = BitVec.ofNat 4 k := by
    intro k hk
    rw [← hk]
    simp
  cases b
  case toshiba =>
    have h' : v.toNat < 3 := h
    have h3 : v = 0 ∨ v = 1 ∨ v = 2 := by
      rcases (by omega : v.toNat = 0 ∨ v.toNat = 1 ∨ v.toNat = 2) with h | h | h
      · exact .inl (key _ h)
      · exact .inr (.inl (key _ h))
      · exact .inr (.inr (key _ h))
    rcases h3 with rfl | rfl | rfl <;> rfl
  case gree =>
    have h' : v.toNat < 7 := h
    simp [Target.of, h', Target.variant]
  all_goals
    have h0 : v.toNat < 1 := h
    have h1 := key 0 (by omega)
    subst h1
    rfl

/-- A target is the target of its brand and its variant (R98). -/
@[simp] theorem targetOf_brand_variant (t : Target) : Target.of t.brand t.variant = t := by
  cases t <;> try rfl
  rename_i m
  fin_cases m <;> rfl

/-- The effective variant is a valid one (R142). -/
theorem effectiveVariant_lt (b : Brand) (v : BitVec 4) : (effectiveVariant b v).toNat < b.variants := by
  unfold effectiveVariant
  split_ifs with h
  · exact h
  · cases b <;> decide

/-- The Registry is looked up by exact code (R141). -/
theorem registry_eq_some (c : Configuration) (code : BitVec 8) (b : Brand) :
    registry c code = some b ↔ b.code = code ∧ c.registered b = true := by
  unfold registry
  rw [← brandOfCode_eq_some]
  cases h : Brand.ofCode code with
  | none => simp
  | some b' =>
    by_cases hr : c.registered b' = true
    · simp only [hr, if_true]
      constructor
      · rintro h
        cases h
        exact ⟨rfl, hr⟩
      · exact fun h => h.1
    · simp [hr]
      rintro rfl
      exact eq_false_of_ne_true hr

namespace Machine

/-! ### Normalisation -/

theorem acceptedMode_eq_some (d : Descriptor) (m : BitVec 4) (x : Mode) :
    acceptedMode d m = some x ↔ x.code = m ∧ d.supportedModes x = true := by
  simp [acceptedMode, Option.filter_eq_some_iff, modeOfCode_eq_some]

theorem acceptedFan_eq_some (d : Descriptor) (f : BitVec 4) (x : FanSpeed) :
    acceptedFan d f = some x ↔ x.code = f ∧ d.supportedFans x = true := by
  simp [acceptedFan, Option.filter_eq_some_iff, fanOfCode_eq_some]

theorem acceptedSwing_eq_some (d : Descriptor) (w : BitVec 4) (x : SwingSetting) :
    acceptedSwing d w = some x ↔ x.code = w ∧ d.supportedSwings x = true := by
  simp [acceptedSwing, Option.filter_eq_some_iff, swingOfCode_eq_some]

/-- A normalised mode is a supported one (R148). -/
theorem normMode_supported (d : Descriptor) (hd : d.WellFormed) (m : BitVec 4) : d.supportedModes (normMode d m) = true := by
  unfold normMode
  cases h : acceptedMode d m with
  | none => exact hd.defaultMode
  | some x => exact ((acceptedMode_eq_some d m x).1 h).2

/-- A normalised fan speed is a supported one (R149). -/
theorem normFan_supported (d : Descriptor) (hd : d.WellFormed) (f : BitVec 4) : d.supportedFans (normFan d f) = true := by
  unfold normFan
  cases h : acceptedFan d f with
  | none => exact hd.defaultFan
  | some x => exact ((acceptedFan_eq_some d f x).1 h).2

/-- A normalised swing setting is a supported one (R150). -/
theorem normSwing_supported (d : Descriptor) (hd : d.WellFormed) (w : BitVec 4) :
    d.supportedSwings (normSwing d w) = true := by
  unfold normSwing
  cases h : acceptedSwing d w with
  | none => exact hd.swingOff
  | some x => exact ((acceptedSwing_eq_some d w x).1 h).2

/-- A normalised temperature lies inside the bounds, in whole degrees for a whole-degree brand (R151). -/
theorem normTemp_bounds (d : Descriptor) (hd : d.WellFormed) (t : Int) :
    d.tempMin ≤ normTemp d t ∧ normTemp d t ≤ d.tempMax ∧ (d.tempStep = .whole → normTemp d t % 2 = 0) := by
  have hb := hd.bounds
  have he := hd.evenBounds
  unfold normTemp quantise clampTemp floorHalf
  cases h : d.tempStep with
  | half => simp; omega
  | whole =>
    have := he h
    simp; omega

/-- Normalisation yields a normalised command (R16). -/
theorem normalise_validFor (d : Descriptor) (hd : d.WellFormed) (cmd : ClimateCommand) : (normalise d cmd).ValidFor d :=
  ⟨normMode_supported d hd _, normFan_supported d hd _, normSwing_supported d hd _, (normTemp_bounds d hd _).1,
   (normTemp_bounds d hd _).2.1, (normTemp_bounds d hd _).2.2⟩

end Machine

/-- Every descriptor of a well-formed configuration is well-formed (R453). -/
theorem desc_wellFormed (c : Configuration) (hc : c.WellFormed) (t : Target) : (c.desc t).WellFormed := by
  cases t
  case lg => exact hc.lg.base
  case daikin => exact hc.daikin.base
  case mitsubishi => exact hc.mitsubishi.desc.base
  case toshibaGeneric => exact hc.toshibaGeneric.desc.base
  case toshibaRas2819t => exact hc.ras2819t.base
  case toshibaRacPt1411hwru => exact hc.racPt.base
  case midea => exact hc.midea.desc.base
  case gree m => exact (hc.gree m).desc.base
  case fujitsu => exact hc.fujitsu.desc.base
  case tcl => exact hc.tcl.desc.base
  case ballu => exact hc.ballu.desc.base
  case coolix => exact hc.coolix.desc.base
  case hitachi => exact hc.hitachi.desc.base
  case whirlpool => exact hc.whirlpool.desc.base
  case whynter => exact hc.whynter.base
  case yashima => exact hc.yashima.desc.base
  case nec => exact hc.nec.desc.base

/-! ### The settled literals, as numbers -/

/-- A frame has 4 to 43 bytes (R453 d). -/
theorem frameLen_range (d : Descriptor) (hd : d.WellFormed) (k : Nat) (hk : k < d.nFrames) :
    4 ≤ d.frameLen k ∧ d.frameLen k ≤ 43 := hd.frameLens k hk

/-- Every target is one of the list (R97, R98). -/
theorem target_mem_all (t : Target) : t ∈ Target.all := by
  cases t
  case gree m => fin_cases m <;> decide
  all_goals decide

/-- LG's bounds lie between 15 and 30 degrees (R235). -/
theorem lg_range (b : WordBrand 28) (h : b.LgRules) : 30 ≤ b.base.tempMin ∧ b.base.tempMax ≤ 60 := ⟨h.low, h.high⟩

/-- TCL's bounds lie between 16 and 31 degrees, and 31 is its maximum (R235, R306). -/
theorem tcl_range (b : ByteBrand) (h : b.TclRules) : 32 ≤ b.base.tempMin ∧ b.base.tempMax = 62 := ⟨h.low, h.high⟩

end Sys2Proof
end

