-- ==== Sys2Proof/Laws/Serializer.lean ====
section
/-! SUPPORT. What the serializer emits (spec/41_pulse_primitives.md R194 to R205): alternation, positive durations, lengths,
and the shape of each plan. -/

namespace Sys2Proof.Machine

/-! ### Alternation (R201) -/

theorem alternates_nil : alternates [] := fun _ h => absurd h (Nat.not_lt_zero _)

theorem alternates_append {ps qs : List Pulse} (hp : alternates ps) (he : ps.length % 2 = 0) (hq : alternates qs) :
    alternates (ps ++ qs) := by
  intro i h
  by_cases hi : i < ps.length
  · rw [List.getElem_append_left hi]
    exact hp i hi
  · rw [List.getElem_append_right (by omega), hq]
    congr 1
    exact propext (by omega)

theorem alternates_pair (m s : Dur) : alternates [⟨.mark, m⟩, ⟨.space, s⟩] := by
  intro i h
  have h' : i < 2 := h
  interval_cases i <;> rfl

theorem alternates_mark (m : Dur) : alternates [⟨.mark, m⟩] := by
  intro i h
  have h' : i < 1 := h
  interval_cases i
  rfl

theorem headerPulses_alternates (h : Option (Dur × Dur)) : alternates (headerPulses h) ∧ (headerPulses h).length % 2 = 0 := by
  rcases h with _ | ⟨a, b⟩
  · exact ⟨alternates_nil, rfl⟩
  · exact ⟨alternates_pair a b, by simp [headerPulses]⟩

theorem bitsPulses_alternates (tp : TimingProfile) (bs : List Bool) :
    alternates (bs.flatMap (bitPulses tp)) ∧ (bs.flatMap (bitPulses tp)).length = 2 * bs.length := by
  induction bs with
  | nil => exact ⟨alternates_nil, rfl⟩
  | cons b bs ih =>
    refine ⟨alternates_append (alternates_pair _ _) (by simp [bitPulses]) ih.1, ?_⟩
    simp only [List.flatMap_cons, List.length_append, ih.2, List.length_cons]
    simp [bitPulses]
    omega

/-- A segment alternates from a mark; its length is even unless its tail is a lone mark (R201). -/
theorem segPulses_alternates (tp : TimingProfile) (s : Segment) :
    alternates (segPulses tp s) ∧ (isMarkTail s.tail = false → (segPulses tp s).length % 2 = 0) := by
  obtain ⟨h1, e1⟩ := headerPulses_alternates s.hdr
  obtain ⟨h2, e2⟩ := bitsPulses_alternates tp s.bits
  have h12 := alternates_append h1 e1 h2
  have e12 : (headerPulses s.hdr ++ s.bits.flatMap (bitPulses tp)).length % 2 = 0 := by
    rw [List.length_append]
    omega
  refine ⟨alternates_append h12 e12 ?_, fun ht => ?_⟩
  · cases s.tail
    · exact alternates_nil
    · exact alternates_mark _
    · exact alternates_pair _ _
  · rw [segPulses, List.length_append]
    cases h : s.tail <;> simp only [h, isMarkTail] at ht <;> simp only [tailPulses, List.length_cons, List.length_nil]
    · omega
    · cases ht
    · omega

/-- A plan whose lone-mark tails stand on the last segment only alternates from a mark (R201, R205 c). -/
theorem planPulses_alternates (tp : TimingProfile) (p : Plan) (h : ∀ s ∈ p.dropLast, isMarkTail s.tail = false) :
    alternates (planPulses tp p) := by
  induction p with
  | nil => exact alternates_nil
  | cons s p ih =>
    have hs := segPulses_alternates tp s
    rcases p with _ | ⟨s', p⟩
    · simpa [planPulses] using hs.1
    · refine alternates_append hs.1 (hs.2 (h s (by simp))) (ih fun x hx => h x ?_)
      rw [List.dropLast_cons_cons]
      exact List.mem_cons_of_mem _ hx

/-! ### Positive durations (R109, R191, R453 b) -/

/-- A segment whose own durations are positive. -/
def segOk (s : Segment) : Prop := (∀ h, s.hdr = some h → h.1 ≠ 0 ∧ h.2 ≠ 0) ∧ trailerOk s.tail

theorem segPulses_pos (tp : TimingProfile) (ht : tp.WellFormed) (s : Segment) (hs : segOk s) :
    ∀ x ∈ segPulses tp s, x.dur ≠ 0 := by
  intro x hx
  simp only [segPulses, List.mem_append, List.mem_flatMap] at hx
  rcases hx with (hx | ⟨b, _, hx⟩) | hx
  · rcases h : s.hdr with _ | ⟨a, c⟩
    · simp [h, headerPulses] at hx
    · have := hs.1 _ h
      simp only [h, headerPulses, List.mem_cons, List.not_mem_nil, or_false] at hx
      rcases hx with rfl | rfl
      · exact this.1
      · exact this.2
  · simp only [bitPulses, List.mem_cons, List.not_mem_nil, or_false] at hx
    rcases hx with rfl | rfl
    · exact ht.bitMark
    · cases b
      · exact ht.zeroSpace
      · exact ht.oneSpace
  · have := hs.2
    rcases h : s.tail with _ | m | ⟨m, g⟩ <;> simp only [h, tailPulses, trailerOk, List.mem_cons, List.not_mem_nil, or_false] at hx this
    · rw [hx]
      exact this
    · rcases hx with rfl | rfl
      · exact this.1
      · exact this.2

theorem ser_pos (tp : TimingProfile) (ht : tp.WellFormed) (p : Plan) (hp : ∀ s ∈ p, segOk s) : ∀ d ∈ ser tp p, d ≠ 0 := by
  intro d hd
  simp only [ser, planPulses, List.mem_map, List.mem_flatMap] at hd
  obtain ⟨x, ⟨s, hs, hx⟩, rfl⟩ := hd
  exact segPulses_pos tp ht s (hp s hs) x hx

/-! ### Lengths (R202, R203) -/

/-- The length of one segment (R202). -/
theorem serSeg_length (tp : TimingProfile) (s : Segment) :
    (serSeg tp s).length = (if s.hdr.isSome then 2 else 0) + 2 * s.bits.length +
      (match s.tail with | .none => 0 | .mark _ => 1 | .markGap _ _ => 2) := by
  simp only [serSeg, segPulses, List.length_map, List.length_append, (bitsPulses_alternates tp s.bits).2]
  cases s.hdr <;> cases s.tail <;> rfl

/-- The sequence of a plan is the concatenation of its segments' (R196). -/
theorem ser_append (tp : TimingProfile) (p q : Plan) : ser tp (p ++ q) = ser tp p ++ ser tp q := by
  simp [ser, planPulses]

theorem ser_cons (tp : TimingProfile) (s : Segment) (p : Plan) : ser tp (s :: p) = serSeg tp s ++ ser tp p := by
  simp [ser, serSeg, planPulses]

/-- A bound on the length of a plan's sequence: four durations and twice the bits for each segment. -/
def planSize (p : Plan) : Nat := (p.map fun s => 4 + 2 * s.bits.length).sum

theorem ser_length_le (tp : TimingProfile) (p : Plan) : (ser tp p).length ≤ planSize p := by
  induction p with
  | nil => exact Nat.le_refl _
  | cons s p ih =>
    rw [ser_cons, List.length_append, serSeg_length]
    simp only [planSize, List.map_cons, List.sum_cons] at ih ⊢
    have h1 : (if s.hdr.isSome then 2 else 0) ≤ 2 := by split <;> omega
    have h2 : (match s.tail with | .none => 0 | .mark _ => 1 | .markGap _ _ => 2) ≤ 2 := by cases s.tail <;> simp
    omega

/-- A sequence whose first segment has a header is not empty. -/
theorem ser_ne_nil (tp : TimingProfile) (s : Segment) (p : Plan) (h : s.hdr.isSome) : ser tp (s :: p) ≠ [] := by
  intro e
  have := congrArg List.length e
  rw [ser_cons, List.length_append, serSeg_length, if_pos h] at this
  simp only [List.length_nil] at this
  omega

/-- Eight bits a byte (R66). -/
theorem bitsOfBytes_length (o : BitOrder) (bs : List Byte) : (bitsOfBytes o bs).length = 8 * bs.length := by
  have h8 : ∀ v, (bitsOfByte o v).length = 8 := by
    intro v
    cases o <;> simp [bitsOfByte]
  induction bs with
  | nil => rfl
  | cons b bs ih =>
    simp only [bitsOfBytes, List.flatMap_cons, List.length_append, h8, List.length_cons] at ih ⊢
    omega

/-- As many bits as the word has (R67). -/
theorem bitsOfWord_length (o : BitOrder) (n : Nat) (w : Word) : (bitsOfWord o n w).length = n := by
  cases o <;> simp [bitsOfWord]

/-! ### Plans (R197 to R200, R205) -/

/-- What every plan of a well-formed descriptor is: its first segment has a header, its durations are positive, a lone-mark
tail stands on the last segment only, and its size is bounded. -/
structure PlanOk (p : Plan) (size : Nat) : Prop where
  head  : ∃ s q, p = s :: q ∧ s.hdr.isSome
  segs  : ∀ s ∈ p, segOk s
  marks : ∀ s ∈ p.dropLast, isMarkTail s.tail = false
  size  : planSize p ≤ size

/-- What a plan of this kind serialises to. -/
theorem PlanOk.ser {p : Plan} {size : Nat} (h : PlanOk p size) (tp : TimingProfile) (ht : tp.WellFormed) :
    Machine.ser tp p ≠ [] ∧ (∀ d ∈ Machine.ser tp p, d ≠ 0) ∧ (Machine.ser tp p).length ≤ size ∧
      alternates (planPulses tp p) := by
  obtain ⟨s, q, rfl, hs⟩ := h.head
  exact ⟨ser_ne_nil tp s q hs, ser_pos tp ht _ h.segs, (ser_length_le tp _).trans h.size, planPulses_alternates tp _ h.marks⟩

theorem header_ok (d : Descriptor) (hd : d.WellFormed) : ∀ h, header d = some h → h.1 ≠ 0 ∧ h.2 ≠ 0 := by
  rintro _ ⟨⟩
  exact ⟨hd.timing.headerMark, hd.timing.headerSpace⟩

/-- A plan of blocks (R197, R198). -/
theorem planBlocks_ok (d : Descriptor) (hd : d.WellFormed) (f : Frame) (fs : List Frame)
    (hb : ∀ g ∈ f :: fs, (frameBits d.bitOrder g).length ≤ 344) : PlanOk (planBlocks d (f :: fs)) (692 * (fs.length + 1)) := by
  induction fs generalizing f with
  | nil =>
    have := hb f (by simp)
    refine ⟨⟨_, _, rfl, rfl⟩, ?_, ?_, ?_⟩
    · simp only [planBlocks, planSingle, List.mem_singleton]
      rintro s rfl
      exact ⟨header_ok d hd, hd.timing.trailer⟩
    · simp [planBlocks, planSingle]
    · simp only [planBlocks, planSingle, planSize, List.map_cons, List.map_nil, List.sum_cons, List.sum_nil, List.length_nil]
      omega
  | cons g fs ih =>
    have h1 := hb f (by simp)
    have h2 := ih g fun x hx => hb x (List.mem_cons_of_mem _ hx)
    obtain ⟨s, q, hsq, -⟩ := h2.head
    refine ⟨⟨_, _, rfl, rfl⟩, ?_, ?_, ?_⟩
    · simp only [planBlocks, List.mem_cons]
      rintro s (rfl | hs)
      · exact ⟨header_ok d hd, hd.plan.blockMark, hd.plan.blockGap⟩
      · exact h2.segs s hs
    · have hm := h2.marks
      simp only [planBlocks]
      rw [hsq] at hm ⊢
      rw [List.dropLast_cons_cons]
      rintro x (_ | ⟨_, hx⟩)
      · rfl
      · exact hm x hx
    · have h3 := h2.size
      simp only [planBlocks, planSize, List.map_cons, List.sum_cons, List.length_cons] at h3 ⊢
      omega

/-- The pieces of a cut frame put together again are the frame, and there is one piece more than counts (R199). -/
theorem cutAt_spec (counts : List Nat) : ∀ (done : Nat) (bs : List Byte),
    (cutAt done counts bs).length = counts.length + 1 ∧ (cutAt done counts bs).flatten = bs := by
  induction counts with
  | nil => intro done bs; simp [cutAt]
  | cons c counts ih =>
    intro done bs
    obtain ⟨h1, h2⟩ := ih c (bs.drop (c - done))
    simp [cutAt, h1, h2]

/-- The first pieces together are the first bytes, up to the count that ends the last of them (R199). -/
theorem cutAt_take (counts : List Nat) : ∀ (done : Nat) (bs : List Byte) (i : Nat) (h : i < counts.length),
    counts.Pairwise (· < ·) → (∀ c ∈ counts, done ≤ c ∧ c ≤ done + bs.length) →
    ((cutAt done counts bs).take (i + 1)).flatten = bs.take (counts[i] - done) := by
  induction counts with
  | nil =>
    intro done bs i h
    exact absurd h (Nat.not_lt_zero _)
  | cons c counts ih =>
    intro done bs i h hp hc
    obtain ⟨hp1, hp2⟩ := List.pairwise_cons.1 hp
    have h0 := hc c (by simp)
    rcases i with _ | i
    · simp [cutAt]
    · have hi : i < counts.length := Nat.lt_of_succ_lt_succ h
      have hm := List.getElem_mem hi
      have h1 := hp1 _ hm
      have := ih c (bs.drop (c - done)) i hi hp2 fun x hx => by
        have h2 := hp1 x hx
        have h3 := hc x (List.mem_cons_of_mem _ hx)
        rw [List.length_drop]
        omega
      rw [cutAt, List.take_succ_cons, List.flatten_cons, this, List.getElem_cons_succ,
        show counts[i] - done = (c - done) + (counts[i] - c) by omega, List.take_add]

/-- The bits of the first segments are the bits of the first byte ranges (R199). -/
theorem splitSegments_take (d : Descriptor) : ∀ (h : Option (Dur × Dur)) (bss : List (List Byte)) (k : Nat),
    ((splitSegments d h bss).take k).flatMap Segment.bits = bitsOfBytes d.bitOrder (bss.take k).flatten := by
  intro h bss
  induction bss generalizing h with
  | nil =>
    intro k
    simp [splitSegments, bitsOfBytes]
  | cons bs bss ih =>
    intro k
    rcases k with _ | k
    · simp [bitsOfBytes]
    · have key : ∀ (seg : Segment) (h' : Option (Dur × Dur)), seg.bits = bitsOfBytes d.bitOrder bs →
          ((seg :: splitSegments d h' bss).take (k + 1)).flatMap Segment.bits =
            bitsOfBytes d.bitOrder ((bs :: bss).take (k + 1)).flatten := by
        intro seg h' e
        rw [List.take_succ_cons, List.take_succ_cons, List.flatMap_cons, ih h' k, e, List.flatten_cons]
        simp [bitsOfBytes]
      rcases bss with _ | ⟨cs, rest⟩
      · exact key _ none rfl
      · exact key _ none rfl

/-- A plan over byte ranges (R199), segment by segment. -/
theorem splitSegments_spec (d : Descriptor) : ∀ (h : Option (Dur × Dur)) (bss : List (List Byte)), bss ≠ [] →
    (splitSegments d h bss).length = bss.length ∧
    (splitSegments d h bss).flatMap Segment.bits = bitsOfBytes d.bitOrder bss.flatten ∧
    (∃ s q, splitSegments d h bss = s :: q ∧ s.hdr = h ∧ ∀ x ∈ q, x.hdr = none) ∧
    (∀ s ∈ (splitSegments d h bss).dropLast, s.tail = .markGap d.plan.divMark d.plan.divGap) ∧
    (∀ s ∈ (splitSegments d h bss).getLast?, s.tail = d.timing.trailer) := by
  intro h bss
  induction bss generalizing h with
  | nil => intro e; exact absurd rfl e
  | cons bs bss ih =>
    intro _
    rcases bss with _ | ⟨cs, rest⟩
    · simp [splitSegments]
    · obtain ⟨h1, h2, ⟨s, q, hsq, hh, hq⟩, h4, h5⟩ := ih none (by simp)
      refine ⟨?_, ?_, ⟨_, _, rfl, rfl, ?_⟩, ?_, ?_⟩
      · simp only [splitSegments, List.length_cons] at h1 ⊢
        omega
      · simp only [splitSegments, List.flatMap_cons] at h2 ⊢
        rw [h2]
        simp [bitsOfBytes]
      · rw [hsq]
        rintro x (_ | ⟨_, hx⟩)
        · exact hh
        · exact hq x hx
      · simp only [splitSegments]
        rw [hsq] at h4 ⊢
        rw [List.dropLast_cons_cons]
        rintro x (_ | ⟨_, hx⟩)
        · rfl
        · exact h4 x hx
      · simp only [splitSegments]
        rw [hsq] at h5 ⊢
        rw [List.getLast?_cons_cons]
        exact h5

/-- Split counts are fewer than the bytes they cut (R199, R453 g). -/
theorem splits_length (splits : List Nat) (len : Nat) (h : splitsOk splits len) : splits.length < len ∨ splits = [] := by
  rcases splits with _ | ⟨c, rest⟩
  · exact .inr rfl
  · left
    have hn : (c :: rest).Nodup := h.1.imp fun h => Nat.ne_of_lt h
    have hs : (c :: rest).toFinset ⊆ Finset.Ioo 0 len := by
      intro x hx
      rw [List.mem_toFinset] at hx
      exact Finset.mem_Ioo.2 (h.2 x hx)
    have := Finset.card_le_card hs
    rw [List.toFinset_card_of_nodup hn, Nat.card_Ioo] at this
    have := (h.2 c (by simp)).2
    omega

theorem planSize_eq (p : Plan) : planSize p = 4 * p.length + 2 * (p.flatMap Segment.bits).length := by
  induction p with
  | nil => rfl
  | cons s p ih =>
    simp only [planSize, List.map_cons, List.sum_cons, List.length_cons, List.flatMap_cons, List.length_append] at ih ⊢
    omega

/-- A split plan (R199). -/
theorem planSplit_spec (d : Descriptor) (f : List Byte) :
    (planSplit d f).length = d.plan.splits.length + 1 ∧
    (planSplit d f).flatMap Segment.bits = bitsOfBytes d.bitOrder f ∧
    (∃ s q, planSplit d f = s :: q ∧ s.hdr = header d ∧ ∀ x ∈ q, x.hdr = none) ∧
    (∀ s ∈ (planSplit d f).dropLast, s.tail = .markGap d.plan.divMark d.plan.divGap) ∧
    (∀ s ∈ (planSplit d f).getLast?, s.tail = d.timing.trailer) := by
  obtain ⟨c1, c2⟩ := cutAt_spec d.plan.splits 0 f
  have hne : cutAt 0 d.plan.splits f ≠ [] := by
    intro e
    rw [e] at c1
    cases c1
  have h := splitSegments_spec d (header d) _ hne
  rw [c1, c2] at h
  exact h

/-- A split plan is in order (R199, R205). -/
theorem planSplit_ok (d : Descriptor) (hd : d.WellFormed) (f : List Byte) (hs : splitsOk d.plan.splits f.length)
    (h4 : 4 ≤ f.length) (hf : f.length ≤ 43) : PlanOk (planSplit d f) 2076 := by
  obtain ⟨h1, h2, ⟨s, q, hsq, hh, hq⟩, h5, h6⟩ := planSplit_spec d f
  refine ⟨⟨s, q, hsq, by rw [hh]; rfl⟩, fun x hx => ⟨?_, ?_⟩, fun x hx => by rw [h5 x hx]; rfl, ?_⟩
  · rw [hsq] at hx
    rcases List.mem_cons.1 hx with rfl | hx
    · rw [hh]
      exact header_ok d hd
    · rw [hq x hx]
      simp
  · have hx' : x ∈ (planSplit d f).dropLast ∨ x ∈ (planSplit d f).getLast? := by
      have hne : planSplit d f ≠ [] := by simp [hsq]
      rw [← List.dropLast_concat_getLast hne] at hx
      rcases List.mem_append.1 hx with hx | hx
      · exact .inl hx
      · rw [List.mem_singleton] at hx
        exact .inr (by rw [List.getLast?_eq_some_getLast hne, hx]; rfl)
    rcases hx' with hx | hx
    · rw [h5 x hx]
      exact ⟨hd.plan.divMark, hd.plan.divGap⟩
    · rw [h6 x hx]
      exact hd.timing.trailer
  · rw [planSize_eq, h1, h2, bitsOfBytes_length]
    rcases splits_length _ _ hs with h | h
    · omega
    · rw [h]
      simp only [List.length_nil]
      omega

theorem setLastTail_append (t : Trailer) (p : Plan) (s : Segment) :
    setLastTail t (p ++ [s]) = p ++ [{ s with tail := t }] := by
  induction p with
  | nil => rfl
  | cons a p ih =>
    rcases p with _ | ⟨b, p⟩
    · rfl
    · simpa [setLastTail] using ih

/-- A repeated plan (R200): the repeat gap ends every copy but the last. -/
theorem planRepeat_spec (d : Descriptor) (n : Nat) (p : Plan) (s : Segment) :
    planRepeat d (n + 1) (p ++ [s]) =
      (List.replicate n (p ++ [{ s with tail := .markGap d.plan.repMark d.plan.repGap }])).flatten ++ (p ++ [s]) := by
  induction n with
  | zero => rfl
  | succ n ih =>
    rw [planRepeat, ih, setLastTail_append, List.replicate_succ, List.flatten_cons]
    simp only [List.append_assoc]

/-- A repeated plan is in order (R200, R205). -/
theorem planRepeat_ok (d : Descriptor) (hd : d.WellFormed) (n size : Nat) (p : Plan) (h : PlanOk p size) :
    PlanOk (planRepeat d (n + 1) p) ((n + 1) * size) := by
  induction n with
  | zero => simpa [planRepeat] using h
  | succ n ih =>
    obtain ⟨s, q, rfl, hs⟩ := h.head
    obtain ⟨r, z, hrz⟩ : ∃ r z, s :: q = r ++ [z] := by
      obtain ⟨r, z, e⟩ := (List.eq_nil_or_concat (s :: q)).resolve_left (by simp)
      exact ⟨r, z, by rw [e, List.concat_eq_append]⟩
    have e : planRepeat d (n + 1 + 1) (s :: q) =
        (r ++ [{ z with tail := .markGap d.plan.repMark d.plan.repGap }]) ++ planRepeat d (n + 1) (s :: q) := by
      rw [planRepeat]
      congr 1
      rw [hrz]
      exact setLastTail_append _ _ _
    rw [e]
    have hz := h.segs z (by rw [hrz]; simp)
    have hr : ∀ x ∈ r, segOk x := fun x hx => h.segs x (by rw [hrz]; simp [hx])
    have hm : ∀ x ∈ r, isMarkTail x.tail = false := fun x hx => h.marks x (by rw [hrz]; simpa using hx)
    obtain ⟨s', q', hq', -⟩ := ih.head
    refine ⟨?_, ?_, ?_, ?_⟩
    · rcases r with _ | ⟨a, r⟩
      · simp only [List.nil_append, List.cons.injEq] at hrz
        exact ⟨_, _, rfl, by rw [← hrz.1]; exact hs⟩
      · simp only [List.cons_append, List.cons.injEq] at hrz
        exact ⟨_, _, rfl, by rw [← hrz.1]; exact hs⟩
    · intro x hx
      simp only [List.mem_append, List.mem_singleton] at hx
      rcases hx with (hx | rfl) | hx
      · exact hr x hx
      · exact ⟨hz.1, hd.plan.repMark, hd.plan.repGap⟩
      · exact ih.segs x hx
    · rw [List.dropLast_append_of_ne_nil (by rw [hq']; simp)]
      intro x hx
      simp only [List.mem_append, List.mem_singleton] at hx
      rcases hx with (hx | rfl) | hx
      · exact hm x hx
      · rfl
      · exact ih.marks x hx
    · have h1 := ih.size
      have h2 := h.size
      rw [hrz] at h2
      simp only [planSize, List.map_append, List.map_cons, List.map_nil, List.sum_append, List.sum_cons, List.sum_nil] at h1 h2 ⊢
      rw [Nat.add_mul (n + 1) 1 size]
      omega

end Sys2Proof.Machine
end

