-- ==== Sys2Proof/Laws/Builders.lean ====
section
/-! SUPPORT. What each frame builder can make (spec/44_brands_flat_word.md, spec/45_brands_byte_array.md,
spec/46_brands_toggle_multipacket.md): its frames, their lengths and checksums, and its plan. -/

namespace Sys2Proof.Machine

/-! ### LG's word -/

/-- A nibble by its bits. -/
theorem nib_putw (w0 x : Word) (k : Nat) (hk : k < 8) :
    (putw w0 8 0xF x).extractLsb' (4 * k) 4 = if k = 2 then x.extractLsb' 0 4 else w0.extractLsb' (4 * k) 4 := by
  unfold putw
  interval_cases k <;> refine BitVec.eq_of_getLsbD_eq fun i hi => ?_ <;> interval_cases i <;> simp

/-- A value put into the empty nibble 0. -/
theorem nib_or (w : Word) (x : BitVec 4) (h : w.extractLsb' 0 4 = 0) (k : Nat) (hk : k < 8) :
    (w ||| x.setWidth 32).extractLsb' (4 * k) 4 = if k = 0 then x else w.extractLsb' (4 * k) 4 := by
  interval_cases k
  · refine BitVec.eq_of_getLsbD_eq fun i hi => ?_
    have := congrArg (fun z : BitVec 4 => z.getLsbD i) h
    interval_cases i <;> simp at this ⊢ <;> simp [this]
  all_goals
    refine BitVec.eq_of_getLsbD_eq fun i hi => ?_
    interval_cases i <;> simp

/-- The nibble sum does not read nibble 0 (R223). -/
theorem nibsum_congr (w v : Word) (h : ∀ k, 1 ≤ k → k < 8 → w.extractLsb' (4 * k) 4 = v.extractLsb' (4 * k) 4) : nibsum w = nibsum v := by
  unfold nibsum nibble
  rw [h 1, h 2, h 3, h 4, h 5, h 6, h 7] <;> decide

/-- The nibble sum as a sum of numbers modulo 16 (R223). -/
theorem nibsum_toNat (w : Word) : (nibsum w).toNat = ((List.range 7).map fun k => (w.extractLsb' (4 * (k + 1)) 4).toNat).sum % 16 := by
  unfold nibsum nibble
  simp only [BitVec.toNat_add, List.range_succ, List.range_zero, List.nil_append, List.map_append, List.map_cons, List.map_nil, List.sum_append, List.sum_cons, List.sum_nil, Nat.reduceAdd, Nat.reduceMul]
  omega

/-- Everything about LG's emitted word (spec/44_brands_flat_word.md R270). -/
theorem lgFinal_spec (c : Configuration) (hc : c.WellFormed) (n : NormCmd) (hn : n.ValidFor c.lg.base) (v : PsView) :
    let w1 := lgWord c n v
    let w := w1 ||| (nibsum w1).setWidth 32
    (if c.lg.base.tempModes n.mode then ((w.extractLsb' 8 4).toNat : Int) = n.temp / 2 - 15
      else w.extractLsb' 8 4 = (c.lg.ctrl n v).extractLsb' 8 4) ∧
    w.extractLsb' 0 4 = nibsum w ∧
    (∀ k, k < 8 → k ≠ 0 → k ≠ 2 → w.extractLsb' (4 * k) 4 = (c.lg.ctrl n v).extractLsb' (4 * k) 4) := by
  intro w1 w
  have hr := hc.lg
  have hs : ∀ k, k < 8 → ((c.lg.ctrl n v).setWidth 32).extractLsb' (4 * k) 4 = (c.lg.ctrl n v).extractLsb' (4 * k) 4 := by
    intro k hk
    refine BitVec.eq_of_getLsbD_eq fun i hi => ?_
    simp
    interval_cases k <;> interval_cases i <;> simp
  have h0 := hr.sumZero n v hn
  have hw1 : ∀ k, k < 8 → k ≠ 2 → w1.extractLsb' (4 * k) 4 = (c.lg.ctrl n v).extractLsb' (4 * k) 4 := by
    intro k hk h2
    show (lgWord c n v).extractLsb' _ _ = _
    unfold lgWord
    split
    · exact (nib_putw _ _ k hk).trans ((if_neg h2).trans (hs k hk))
    · exact hs k hk
  have hw10 : w1.extractLsb' 0 4 = 0 := (hw1 0 (by decide) (by decide)).trans h0
  have hw : ∀ k, k < 8 → w.extractLsb' (4 * k) 4 = if k = 0 then nibsum w1 else w1.extractLsb' (4 * k) 4 := nib_or w1 _ hw10
  have hsum : nibsum w = nibsum w1 := nibsum_congr _ _ fun k h1 hk => (hw k hk).trans (if_neg (by omega))
  refine ⟨?_, ?_, ?_⟩
  · have e : w.extractLsb' 8 4 = w1.extractLsb' 8 4 := hw 2 (by decide)
    rw [e]
    split
    · rename_i hm
      have e2 : w1.extractLsb' 8 4 = (BitVec.ofInt 32 (floorHalf n.temp - lgTempOffset)).extractLsb' 0 4 := by
        show (lgWord c n v).extractLsb' 8 4 = _
        unfold lgWord
        rw [if_pos hm]
        exact nib_putw _ _ 2 (by decide)
      rw [e2]
      have h1 := hn.low; have h2 := hn.high; obtain ⟨h3, h4⟩ := lg_range _ hr
      obtain ⟨k, hk⟩ : ∃ k : Nat, floorHalf n.temp - lgTempOffset = k := ⟨(floorHalf n.temp - lgTempOffset).toNat, by unfold floorHalf lgTempOffset; omega⟩
      have hk15 : k < 16 := by unfold floorHalf lgTempOffset at hk; omega
      have : n.temp / 2 - 15 = k := hk
      rw [this, hk]
      interval_cases k <;> rfl
    · rename_i hm
      show (lgWord c n v).extractLsb' _ _ = _
      unfold lgWord
      rw [if_neg hm]
      exact hs 2 (by decide)
  · rw [hsum]; exact hw 0 (by decide)
  · intro k hk h0 h2
    exact (hw k hk).trans ((if_neg h0).trans (hw1 k hk h2))


/-! ### Single steps -/

/-- A trailing checksum changes the last byte only (R224). -/
theorem finish_dropLast (d : Descriptor) (f : List Byte) (h : f ≠ []) (hk : trailingKind d.checksumKind) :
    (finish d f).dropLast = f.dropLast := by
  unfold finish
  rcases hk with hk | hk <;> rw [hk] <;> exact (setTrailing_spec _ _ h).1

/-- A frame of at least four bytes is not empty. -/
theorem ne_nil_of_length (f : List Byte) (n : Nat) (h : f.length = n) (h4 : 4 ≤ n) : f ≠ [] := by
  rintro rfl
  simp at h
  omega

/-- The Gree model that a bound façade's view selects (R320). -/
theorem greeModel_eq (c : Configuration) (m : Fin 7) (v : PsView) (h : v.modelVariant = (Target.gree m).variant) :
    greeModel c v = c.gree m := by
  unfold greeModel
  rw [h]
  fin_cases m <;> rfl

/-- The frame lengths of a descriptor with one frame (R453 d). -/
theorem oneByteFrame_len (d : Descriptor) (h : d.OneByteFrame) : 4 ≤ d.frameLen 0 ∧ d.frameLen 0 ≤ 43 :=
  frameLen_range _ h.base 0 (by rw [h.one]; decide)

/-! ### Frames -/

/-- The frames of a target have their lengths (R69 a, R453 d). -/
def framesOk (d : Descriptor) (fs : List Frame) : Prop :=
  1 ≤ fs.length ∧ fs.length ≤ 3 ∧ ∀ (k : Nat) (f : Frame), fs[k]? = some f →
    match f with
    | .bytes bs => bs.length = d.frameLen k ∧ 4 ≤ bs.length ∧ bs.length ≤ 43
    | .word m w => d.extent = .bits m ∧ m ≤ 32 ∧ w.toNat < 2 ^ m

theorem framesOk_one (d : Descriptor) (h : d.OneByteFrame) (f : List Byte) (hf : f.length = d.frameLen 0) :
    framesOk d [.bytes f] := by
  have := oneByteFrame_len d h
  refine ⟨Nat.le_refl 1, (by decide : 1 ≤ 3), ?_⟩
  rintro (_ | k) g hg
  · cases hg
    exact ⟨hf, by omega, by omega⟩
  · simp at hg

/-- The frames a builder makes have their lengths (R69 a). -/
theorem builderOf_frames (c : Configuration) (hc : c.WellFormed) (t : Target) (n : NormCmd) (v : PsView)
    (hn : n.ValidFor (c.desc t)) (hv : v.modelVariant = t.variant) : framesOk (c.desc t) (builderOf c t n v).frames := by
  cases t
  case lg =>
    refine ⟨Nat.le_refl 1, (by decide : 1 ≤ 3), ?_⟩
    rintro (_ | k) g hg
    · cases hg
      refine ⟨hc.lg.extent, by decide, ?_⟩
      have h7 := (lgFinal_spec c hc n hn v).2.2 7 (by decide) (by decide) (by decide)
      generalize lgWord c n v ||| (nibsum (lgWord c n v)).setWidth 32 = w at h7
      have h0 : (c.lg.ctrl n v).extractLsb' (4 * 7) 4 = 0 := by
        refine BitVec.eq_of_getLsbD_eq fun i hi => ?_
        interval_cases i <;> simp
      have hx := congrArg BitVec.toNat (h7.trans h0)
      rw [BitVec.extractLsb'_toNat] at hx
      simp only [Nat.shiftRight_eq_div_pow, BitVec.ofNat_eq_ofNat, BitVec.toNat_ofNat] at hx
      have := w.isLt
      unfold lgFrameBits
      omega
    · simp [builderOf, buildLg] at hg
  case whynter =>
    refine ⟨Nat.le_refl 1, (by decide : 1 ≤ 3), ?_⟩
    rintro (_ | k) g hg
    · cases hg
      exact ⟨hc.whynter.extent, by decide, BitVec.isLt _⟩
    · simp [builderOf, buildWhynter] at hg
  case yashima =>
    have h := hc.yashima
    have hl := (h.ctrl.length n v hn).trans h.len.symm
    exact framesOk_one _ h.desc _ ((finish_length _ h.desc.base _).trans ((putTemp_length ..).trans hl))
  case ballu =>
    have h := hc.ballu
    have hl := (h.ctrl.length n v hn).trans h.len.symm
    exact framesOk_one _ h.desc _ ((finish_length _ h.desc.base _).trans (by rw [List.length_set]; exact hl))
  case tcl =>
    have h := hc.tcl
    refine framesOk_one _ h.desc _ ((finish_length _ h.desc.base _).trans ?_)
    have hl := h.ctrl.length n v hn
    split
    · simpa [putTclTemp] using hl
    · exact hl
  case mitsubishi =>
    have h := hc.mitsubishi
    exact framesOk_one _ h.desc _ ((finish_length _ h.desc.base _).trans (h.ctrl.length n v hn))
  case midea =>
    have h := hc.midea
    exact framesOk_one _ h.desc _ ((finish_length _ h.desc.base _).trans (h.ctrl.length n v hn))
  case gree m =>
    have h := hc.gree m
    have hg := greeModel_eq c m v hv
    show framesOk _ [.bytes (greeFrame (greeModel c v) n v)]
    rw [hg]
    refine framesOk_one _ h.desc _ ?_
    show ((c.gree m).store _ _).length = _
    rw [← h.finish, h.desc.base.finishLength]
    exact h.ctrl.length n v hn
  case fujitsu =>
    have h := hc.fujitsu
    exact framesOk_one _ h.desc _ ((finish_length _ h.desc.base _).trans (h.ctrl.length n v hn))
  case nec =>
    have h := hc.nec
    exact framesOk_one _ h.desc _ ((finish_length _ h.desc.base _).trans (h.ctrl.length n v hn))
  case coolix =>
    have h := hc.coolix
    refine framesOk_one _ h.desc _ ?_
    unfold coolixFrame
    split
    · exact (finish_length _ h.desc.base _).trans ((putTemp_length ..).trans (h.ctrl.length n v hn))
    · exact h.swingLength
  case whirlpool =>
    have h := hc.whirlpool
    refine framesOk_one _ h.desc _ ((finish_length _ h.desc.base _).trans ?_)
    have hl := h.ctrl.length n v hn
    split
    · exact hl
    · simpa [putField] using hl
  case toshibaGeneric =>
    have h := hc.toshibaGeneric
    exact framesOk_one _ h.desc _ ((finish_length _ h.desc.base _).trans (h.ctrl.length n v hn))
  case toshibaRas2819t =>
    have h := hc.ras2819t
    have h4 := frameLen_range _ h.base 0 (by rw [h.two]; decide)
    have key : ∀ fs : List (List Byte), 1 ≤ fs.length → fs.length ≤ 2 → (∀ f ∈ fs, f.length = c.ras2819t.base.frameLen 0) →
        framesOk c.ras2819t.base (fs.map Frame.bytes) := by
      intro fs h1 h2 hf
      refine ⟨by simpa using h1, by simp; omega, ?_⟩
      intro k g hg
      rw [List.getElem?_map, Option.map_eq_some_iff] at hg
      obtain ⟨f, hk, rfl⟩ := hg
      have hm := hf f (List.mem_of_getElem? hk)
      have hk2 := (List.getElem?_eq_some_iff.1 hk).1
      have e : c.ras2819t.base.frameLen k = c.ras2819t.base.frameLen 0 := by
        rcases (by omega : k = 0 ∨ k = 1) with rfl | rfl
        · rfl
        · exact h.equal
      exact ⟨by rw [e]; exact hm, by omega, by omega⟩
    show framesOk _ ((ras2819tFrames c n v).map Frame.bytes)
    unfold ras2819tFrames
    split
    · refine key _ (by simp [ras2819tNormal]) (by simp [ras2819tNormal]) ?_
      simp only [ras2819tNormal, List.mem_cons, List.not_mem_nil, or_false]
      rintro f (rfl | rfl)
      · exact (finish_length _ h.base _).trans (h.ctrl0.length n v hn)
      · exact (finish_length _ h.base _).trans (h.ctrl1.length n v hn)
    · exact key _ (by rcases h.toggleCount with e | e <;> omega) (by rcases h.toggleCount with e | e <;> omega) h.toggleLength
  case toshibaRacPt1411hwru =>
    have h := hc.racPt
    have h0 := frameLen_range _ h.base 0 (by rw [h.two]; decide)
    have h1 := frameLen_range _ h.base 1 (by rw [h.two]; decide)
    have l0 : (racPtMain c n v).length = c.racPt.base.frameLen 0 :=
      (finish_length _ h.base _).trans ((putTemp_length ..).trans (h.main.length n v hn))
    have l1 : (racPtSwing c n v).length = c.racPt.base.frameLen 1 := (finish_length _ h.base _).trans (h.swing.length n v hn)
    refine ⟨(by decide : 1 ≤ 2), (by decide : 2 ≤ 3), ?_⟩
    rintro (_ | _ | k) g hg
    · cases hg
      exact ⟨l0, by omega, by omega⟩
    · cases hg
      exact ⟨l1, by omega, by omega⟩
    · simp [builderOf, buildToshibaRacPt1411hwru] at hg
  case daikin =>
    have h := hc.daikin
    have h0 := frameLen_range _ h.base 0 (by rw [h.three]; decide)
    have h1 := frameLen_range _ h.base 1 (by rw [h.three]; decide)
    have h2 := frameLen_range _ h.base 2 (by rw [h.three]; decide)
    have l0 := (finish_length c.daikin.base h.base _).trans (h.block0.length n v hn)
    have l1 := (finish_length c.daikin.base h.base _).trans (h.block1.length n v hn)
    have l2 := (finish_length c.daikin.base h.base _).trans (h.block2.length n v hn)
    refine ⟨(by decide : 1 ≤ 3), Nat.le_refl 3, ?_⟩
    rintro (_ | _ | _ | k) g hg
    · cases hg
      exact ⟨l0, by omega, by omega⟩
    · cases hg
      exact ⟨l1, by omega, by omega⟩
    · cases hg
      exact ⟨l2, by omega, by omega⟩
    · simp [builderOf, buildDaikin, daikinBlocks] at hg
  case hitachi =>
    have h := hc.hitachi
    exact framesOk_one _ h.desc _
      ((finish_length _ h.desc.base _).trans ((invertPairs_length ..).trans (h.ctrl.length n v hn)))

/-! ### Plans -/

/-- Every plan is a repetition, once or more, of the frames as blocks or of one split frame (R197 to R200). -/
def planShape (d : Descriptor) (b : Built) : Prop :=
  ∃ k, k + 1 ≤ d.plan.copies ∧
    (b.plan = planRepeat d (k + 1) (planBlocks d b.frames) ∨
     ∃ f, b.frames = [.bytes f] ∧ splitsOk d.plan.splits f.length ∧ b.plan = planRepeat d (k + 1) (planSplit d f))

theorem builderOf_plan (c : Configuration) (hc : c.WellFormed) (t : Target) (n : NormCmd) (v : PsView)
    (hn : n.ValidFor (c.desc t)) (hv : v.modelVariant = t.variant) : planShape (c.desc t) (builderOf c t n v) := by
  have one : 0 + 1 ≤ (c.desc t).plan.copies := (desc_wellFormed c hc t).plan.copies
  cases t
  case mitsubishi => exact ⟨1, (hc.mitsubishi.copies _ rfl).ge, .inl rfl⟩
  case toshibaGeneric => exact ⟨1, (hc.toshibaGeneric.copies _ rfl).ge, .inl rfl⟩
  case toshibaRas2819t => exact ⟨1, hc.ras2819t.copies.ge, .inl rfl⟩
  case toshibaRacPt1411hwru =>
    have h1 := hc.racPt.base.plan.copies
    refine ⟨c.racPt.base.plan.copies - 1, ?_, .inl ?_⟩
    · show _ ≤ c.racPt.base.plan.copies
      omega
    · show planRepeat _ _ _ = _
      rw [Nat.sub_add_cancel h1]
      rfl
  case gree m =>
    have h := hc.gree m
    have h1 := h.desc.base.plan.copies
    have hg := greeModel_eq c m v hv
    refine ⟨(c.gree m).base.plan.copies - 1, ?_, ?_⟩
    · show _ ≤ (c.gree m).base.plan.copies
      omega
    · show greePlan (greeModel c v) (greeFrame (greeModel c v) n v) = _ ∨
        ∃ f, [Frame.bytes (greeFrame (greeModel c v) n v)] = _ ∧ _ ∧ greePlan (greeModel c v) (greeFrame (greeModel c v) n v) = _
      have hl := (builderOf_frames c hc (.gree m) n v hn hv).2.2 0 (.bytes (greeFrame (greeModel c v) n v)) rfl
      rw [hg] at hl ⊢
      rw [Nat.sub_add_cancel h1]
      unfold greePlan
      cases he : (c.gree m).emission
      · left
        show _ = planRepeat _ _ (planBlocks _ [Frame.bytes (greeFrame (greeModel c v) n v)])
        rw [hg]
        rfl
      · right
        refine ⟨_, rfl, ?_, rfl⟩
        have := h.splits he
        rw [hl.1]
        exact this
  case whirlpool =>
    have hl := (builderOf_frames c hc .whirlpool n v hn hv).2.2 0 _ rfl
    refine ⟨0, one, .inr ⟨_, rfl, ?_, rfl⟩⟩
    have e : (whirlpoolFrame c n v).length = c.whirlpool.base.frameLen 0 := hl.1
    rw [e]
    exact hc.whirlpool.splits.2
  all_goals exact ⟨0, one, .inl rfl⟩

/-- The plan of every command is in order (R203, R205). -/
theorem builderOf_planOk (c : Configuration) (hc : c.WellFormed) (t : Target) (n : NormCmd) (v : PsView)
    (hn : n.ValidFor (c.desc t)) (hv : v.modelVariant = t.variant) :
    PlanOk (builderOf c t n v).plan ((c.desc t).plan.copies * durationsPerCopy) := by
  have hd := desc_wellFormed c hc t
  obtain ⟨f1, f2, f3⟩ := builderOf_frames c hc t n v hn hv
  obtain ⟨k, hk, hp⟩ := builderOf_plan c hc t n v hn hv
  have hm := Nat.mul_le_mul_right durationsPerCopy hk
  have h2076 : durationsPerCopy = 2076 := rfl
  have lift : ∀ p, PlanOk p durationsPerCopy →
      PlanOk (planRepeat (c.desc t) (k + 1) p) ((c.desc t).plan.copies * durationsPerCopy) := by
    intro p h
    have := planRepeat_ok _ hd k durationsPerCopy p h
    exact ⟨this.head, this.segs, this.marks, this.size.trans hm⟩
  rcases hp with hp | ⟨f, hf, hs, hp⟩
  · rw [hp]
    refine lift _ ?_
    have hb : ∀ g ∈ (builderOf c t n v).frames, (frameBits (c.desc t).bitOrder g).length ≤ 344 := by
      intro g hg
      obtain ⟨j, hj⟩ := List.mem_iff_getElem?.1 hg
      have := f3 j g hj
      cases g with
      | word m w =>
        have h32 := this.2.1
        rw [frameBits, bitsOfWord_length]
        omega
      | bytes bs =>
        have h43 := this.2.2
        rw [frameBits, bitsOfBytes_length]
        omega
    rcases hfs : (builderOf c t n v).frames with _ | ⟨f, fs⟩
    · rw [hfs] at f1
      simp at f1
    · rw [hfs] at hb f2
      have := planBlocks_ok _ hd f fs hb
      refine ⟨this.head, this.segs, this.marks, this.size.trans ?_⟩
      simp only [List.length_cons] at f2
      omega
  · rw [hp]
    have h3 := f3 0 (.bytes f) (by rw [hf]; rfl)
    exact lift _ (planSplit_ok _ hd f hs h3.2.1 h3.2.2)

/-- `copies_max` is the largest copy count of a registered brand (R203). -/
theorem copiesMax_spec (c : Configuration) :
    (∀ t, c.registered t.brand = true → (c.desc t).plan.copies ≤ copiesMax c) ∧
    (copiesMax c = 0 ∨ ∃ t, c.registered t.brand = true ∧ copiesMax c = (c.desc t).plan.copies) := by
  have key : ∀ l : List Nat, (∀ x ∈ l, x ≤ l.foldr max 0) ∧ (l.foldr max 0 = 0 ∨ l.foldr max 0 ∈ l) := by
    intro l
    induction l with
    | nil => simp
    | cons a l ih =>
      refine ⟨fun x hx => ?_, ?_⟩
      · rcases List.mem_cons.1 hx with rfl | hx
        · exact le_max_left ..
        · exact (ih.1 x hx).trans (le_max_right ..)
      · simp only [List.foldr_cons, List.mem_cons]
        rcases le_total a (l.foldr max 0) with h | h
        · rw [max_eq_right h]
          exact ih.2.imp id .inr
        · rw [max_eq_left h]
          exact .inr (.inl rfl)
  obtain ⟨h1, h2⟩ := key ((Target.all.filter fun t => c.registered t.brand).map fun t => (c.desc t).plan.copies)
  refine ⟨fun t ht => h1 _ (List.mem_map.2 ⟨t, List.mem_filter.2 ⟨target_mem_all t, ht⟩, rfl⟩), h2.imp id fun h => ?_⟩
  obtain ⟨t, ht, e⟩ := List.mem_map.1 h
  exact ⟨t, (List.mem_filter.1 ht).2, e.symm⟩

end Sys2Proof.Machine
end

