-- ==== Sys2Proof/Laws/Decode.lean ====
section
/-! SUPPORT. The fields of the words that the encoder makes, and what each decodes to (spec/30_encoding.md R91 to R93, R99,
R113). -/

namespace Sys2Proof

/-! ### Fields of encoded words -/

@[simp] theorem opField_encodeResolve (b : BitVec 8) (v : BitVec 4) : opField (encodeResolve b v) = 1 := by
  unfold opField encodeResolve
  ext i hi
  interval_cases i <;> simp

@[simp] theorem brandField_encodeResolve (b : BitVec 8) (v : BitVec 4) : brandField (encodeResolve b v) = b := by
  unfold brandField encodeResolve
  ext i hi
  interval_cases i <;> simp

@[simp] theorem variantField_encodeResolve (b : BitVec 8) (v : BitVec 4) : variantField (encodeResolve b v) = v := by
  unfold variantField encodeResolve
  ext i hi
  interval_cases i <;> simp

@[simp] theorem opField_encodeGenerate (c : ClimateCommand) : opField (encodeGenerate c) = 2 := by
  unfold opField encodeGenerate
  ext i hi
  interval_cases i <;> simp

@[simp] theorem modeField_encodeGenerate (c : ClimateCommand) : modeField (encodeGenerate c) = c.mode := by
  unfold modeField encodeGenerate
  ext i hi
  interval_cases i <;> simp

@[simp] theorem fanField_encodeGenerate (c : ClimateCommand) : fanField (encodeGenerate c) = c.fan := by
  unfold fanField encodeGenerate
  ext i hi
  interval_cases i <;> simp

@[simp] theorem swingField_encodeGenerate (c : ClimateCommand) : swingField (encodeGenerate c) = c.swing := by
  unfold swingField encodeGenerate
  ext i hi
  interval_cases i <;> simp

@[simp] theorem tempField_encodeGenerate (c : ClimateCommand) : tempField (encodeGenerate c) = c.temp := by
  unfold tempField encodeGenerate
  ext i hi
  interval_cases i <;> simp

@[simp] theorem climateField_encodeGenerate (c : ClimateCommand) : climateField (encodeGenerate c) = c := by
  simp [climateField]

@[simp] theorem opField_encodeQuery (n : BitVec 4) : opField (encodeQuery n) = 3 := by
  unfold opField encodeQuery
  ext i hi
  interval_cases i <;> simp

@[simp] theorem selField_encodeQuery (n : BitVec 4) : selField (encodeQuery n) = n := by
  unfold selField encodeQuery
  ext i hi
  interval_cases i <;> simp

/-! ### Encoded words as numbers -/

/-- Concatenation as a sum. -/
theorem toNat_append_add {n m : Nat} (x : BitVec n) (y : BitVec m) : (x ++ y).toNat = x.toNat * 2 ^ m + y.toNat := by
  rw [BitVec.toNat_append, ← Nat.shiftLeft_add_eq_or_of_lt y.isLt, Nat.shiftLeft_eq]

/-- The fields of a RESOLVE word, side by side (R91). -/
theorem encodeResolve_eq (b : BitVec 8) (v : BitVec 4) : encodeResolve b v = 1#4 ++ b ++ v ++ 0#16 := by
  unfold encodeResolve
  refine BitVec.eq_of_getLsbD_eq fun i hi => ?_
  simp only [BitVec.getLsbD_append, BitVec.getLsbD_or]
  interval_cases i <;> simp

/-- The fields of a GENERATE word, side by side (R92). -/
theorem encodeGenerate_eq (c : ClimateCommand) : encodeGenerate c = 2#4 ++ c.mode ++ c.fan ++ c.swing ++ c.temp := by
  unfold encodeGenerate
  refine BitVec.eq_of_getLsbD_eq fun i hi => ?_
  simp only [BitVec.getLsbD_append, BitVec.getLsbD_or]
  interval_cases i <;> simp

/-- The fields of a QUERY word, side by side (R93). -/
theorem encodeQuery_eq (n : BitVec 4) : encodeQuery n = 3#4 ++ n ++ 0#24 := by
  unfold encodeQuery
  refine BitVec.eq_of_getLsbD_eq fun i hi => ?_
  simp only [BitVec.getLsbD_append, BitVec.getLsbD_or]
  interval_cases i <;> simp

/-- A RESOLVE word as a number (R113). -/
theorem encodeResolve_toNat (b : BitVec 8) (v : BitVec 4) :
    (encodeResolve b v).toNat = 0x10000000 + b.toNat * 2 ^ 20 + v.toNat * 2 ^ 16 := by
  rw [encodeResolve_eq]
  simp only [toNat_append_add, BitVec.toNat_ofNat]
  ring

/-- A GENERATE word as a number (R113). -/
theorem encodeGenerate_toNat (c : ClimateCommand) :
    (encodeGenerate c).toNat =
      0x20000000 + c.mode.toNat * 2 ^ 24 + c.fan.toNat * 2 ^ 20 + c.swing.toNat * 2 ^ 16 + c.temp.toNat := by
  rw [encodeGenerate_eq]
  simp only [toNat_append_add, BitVec.toNat_ofNat]
  ring
/-! ### Decoding encoded words -/

/-- RESOLVE decodes to its operands (R91). -/
@[simp] theorem decode_encodeResolve (t : Option Target) (b : BitVec 8) (v : BitVec 4) :
    decode t (encodeResolve b v) = .resolve b v := by
  simp [decode]

/-- A GENERATE word decodes to the row of the binding, with its operands (R92, R107). -/
@[simp] theorem decode_encodeGenerate (t : Option Target) (c : ClimateCommand) :
    decode t (encodeGenerate c) = decodeGenerate t c := by
  simp [decode]

/-- A QUERY word decodes by its selector (R93). -/
@[simp] theorem decode_encodeQuery (t : Option Target) (n : BitVec 4) : decode t (encodeQuery n) = decodeQuery n := by
  simp [decode]

/-! ### The rows of GENERATE -/

/-- Every selector has one row, which stands under every binding (R37, R93). -/
theorem wellFormed_decodeQuery (b : Option Target) (n : BitVec 4) : (decodeQuery n).wellFormed b = true := by
  obtain ⟨n, hn⟩ := n
  have h : n < 16 := hn
  interval_cases n <;> rfl

/-- The word of a selector's row (R93). -/
theorem encode_decodeQuery (n : BitVec 4) : encode (decodeQuery n) = encodeQuery n := by
  obtain ⟨n, hn⟩ := n
  have h : n < 16 := hn
  interval_cases n <;> rfl

/-- Every row of GENERATE has one word (R107). -/
@[simp] theorem encode_generate (t : Target) (c : ClimateCommand) : encode (t.generate c) = encodeGenerate c := by
  cases t <;> rfl

/-- The row that a binding chooses stands under it (R107). -/
theorem wellFormed_decodeGenerate (b : Option Target) (c : ClimateCommand) : (decodeGenerate b c).wellFormed b = true := by
  cases b with
  | none => simp [decodeGenerate, Instr.wellFormed]
  | some t => cases t <;> simp [decodeGenerate, Target.generate, Instr.wellFormed]

/-- The word of the row that a binding chooses (R107). -/
theorem encode_decodeGenerate (b : Option Target) (c : ClimateCommand) : encode (decodeGenerate b c) = encodeGenerate c := by
  cases b with
  | none => rfl
  | some t => exact encode_generate t c

end Sys2Proof
end

