-- ==== Sys2Proof/Laws/State.lean ====
section
/-! SUPPORT. What each update of the state leaves in each register: one lemma per update and register, so that no proof
unfolds a record update. -/

namespace Sys2Proof.Machine

variable (s : State)

/-! ### load -/

@[simp] theorem State.load_facade (l : Latch) : (s.load l).facade = s.facade := rfl
@[simp] theorem State.load_err (l : Latch) : (s.load l).err = s.err := rfl
@[simp] theorem State.load_errInfo (l : Latch) : (s.load l).errInfo = s.errInfo := rfl
@[simp] theorem State.load_diag (l : Latch) : (s.load l).diag = s.diag := rfl
@[simp] theorem State.load_seq (l : Latch) : (s.load l).seq = s.seq := rfl
@[simp] theorem State.load_cmd (l : Latch) : (s.load l).cmd = some l := rfl
@[simp] theorem State.load_norm (l : Latch) : (s.load l).norm = s.norm := rfl
@[simp] theorem State.load_fb (l : Latch) : (s.load l).fb = s.fb := rfl
@[simp] theorem State.load_pq (l : Latch) : (s.load l).pq = s.pq := rfl
@[simp] theorem State.load_cur (l : Latch) : (s.load l).cur = s.cur := rfl
@[simp] theorem State.load_rsp (l : Latch) : (s.load l).rsp = s.rsp := rfl
@[simp] theorem State.load_inputs (l : Latch) : (s.load l).inputs = s.inputs := rfl

/-! ### answer -/

@[simp] theorem State.answer_facade (st : Status) (data : Word) : (s.answer st data).facade = s.facade := rfl
@[simp] theorem State.answer_err (st : Status) (data : Word) : (s.answer st data).err = s.err := rfl
@[simp] theorem State.answer_errInfo (st : Status) (data : Word) : (s.answer st data).errInfo = s.errInfo := rfl
@[simp] theorem State.answer_diag (st : Status) (data : Word) : (s.answer st data).diag = s.diag := rfl
@[simp] theorem State.answer_seq (st : Status) (data : Word) : (s.answer st data).seq = s.seq := rfl
@[simp] theorem State.answer_cmd (st : Status) (data : Word) : (s.answer st data).cmd = none := rfl
@[simp] theorem State.answer_norm (st : Status) (data : Word) : (s.answer st data).norm = none := rfl
@[simp] theorem State.answer_fb (st : Status) (data : Word) : (s.answer st data).fb = none := rfl
@[simp] theorem State.answer_pq (st : Status) (data : Word) : (s.answer st data).pq = s.pq := rfl
@[simp] theorem State.answer_cur (st : Status) (data : Word) : (s.answer st data).cur = s.cur := rfl
@[simp] theorem State.answer_rsp (st : Status) (data : Word) : (s.answer st data).rsp = some ⟨st, data⟩ := rfl
@[simp] theorem State.answer_inputs (st : Status) (data : Word) : (s.answer st data).inputs = s.inputs := rfl

/-! ### raiseUnsupportedBrand -/

@[simp] theorem State.raiseUnsupportedBrand_facade (b : BitVec 8) (v : BitVec 4) : (s.raiseUnsupportedBrand b v).facade = s.facade := rfl
@[simp] theorem State.raiseUnsupportedBrand_err (b : BitVec 8) (v : BitVec 4) : (s.raiseUnsupportedBrand b v).err = true := rfl
@[simp] theorem State.raiseUnsupportedBrand_errInfo (b : BitVec 8) (v : BitVec 4) : (s.raiseUnsupportedBrand b v).errInfo = brandVariantWord b v := rfl
@[simp] theorem State.raiseUnsupportedBrand_diag (b : BitVec 8) (v : BitVec 4) : (s.raiseUnsupportedBrand b v).diag = s.diag := rfl
@[simp] theorem State.raiseUnsupportedBrand_seq (b : BitVec 8) (v : BitVec 4) : (s.raiseUnsupportedBrand b v).seq = s.seq := rfl
@[simp] theorem State.raiseUnsupportedBrand_cmd (b : BitVec 8) (v : BitVec 4) : (s.raiseUnsupportedBrand b v).cmd = none := rfl
@[simp] theorem State.raiseUnsupportedBrand_norm (b : BitVec 8) (v : BitVec 4) : (s.raiseUnsupportedBrand b v).norm = none := rfl
@[simp] theorem State.raiseUnsupportedBrand_fb (b : BitVec 8) (v : BitVec 4) : (s.raiseUnsupportedBrand b v).fb = none := rfl
@[simp] theorem State.raiseUnsupportedBrand_pq (b : BitVec 8) (v : BitVec 4) : (s.raiseUnsupportedBrand b v).pq = s.pq := rfl
@[simp] theorem State.raiseUnsupportedBrand_cur (b : BitVec 8) (v : BitVec 4) : (s.raiseUnsupportedBrand b v).cur = s.cur := rfl
@[simp] theorem State.raiseUnsupportedBrand_rsp (b : BitVec 8) (v : BitVec 4) : (s.raiseUnsupportedBrand b v).rsp = some ⟨.unsupportedBrand, brandVariantWord b v⟩ := rfl
@[simp] theorem State.raiseUnsupportedBrand_inputs (b : BitVec 8) (v : BitVec 4) : (s.raiseUnsupportedBrand b v).inputs = s.inputs := rfl

/-! ### clearError -/

@[simp] theorem State.clearError_facade : (s.clearError).facade = s.facade := rfl
@[simp] theorem State.clearError_err : (s.clearError).err = false := rfl
@[simp] theorem State.clearError_errInfo : (s.clearError).errInfo = 0 := rfl
@[simp] theorem State.clearError_diag : (s.clearError).diag = s.diag := rfl
@[simp] theorem State.clearError_seq : (s.clearError).seq = s.seq := rfl
@[simp] theorem State.clearError_cmd : (s.clearError).cmd = s.cmd := rfl
@[simp] theorem State.clearError_norm : (s.clearError).norm = s.norm := rfl
@[simp] theorem State.clearError_fb : (s.clearError).fb = s.fb := rfl
@[simp] theorem State.clearError_pq : (s.clearError).pq = s.pq := rfl
@[simp] theorem State.clearError_cur : (s.clearError).cur = s.cur := rfl
@[simp] theorem State.clearError_rsp : (s.clearError).rsp = s.rsp := rfl
@[simp] theorem State.clearError_inputs : (s.clearError).inputs = s.inputs := rfl

/-! ### construct -/

@[simp] theorem State.construct_facade (t : Target) : (s.construct t).facade = some ⟨t, .fresh⟩ := rfl
@[simp] theorem State.construct_err (t : Target) : (s.construct t).err = false := rfl
@[simp] theorem State.construct_errInfo (t : Target) : (s.construct t).errInfo = 0 := rfl
@[simp] theorem State.construct_diag (t : Target) : (s.construct t).diag = .zero := rfl
@[simp] theorem State.construct_seq (t : Target) : (s.construct t).seq = 0 := rfl
@[simp] theorem State.construct_cmd (t : Target) : (s.construct t).cmd = s.cmd := rfl
@[simp] theorem State.construct_norm (t : Target) : (s.construct t).norm = s.norm := rfl
@[simp] theorem State.construct_fb (t : Target) : (s.construct t).fb = s.fb := rfl
@[simp] theorem State.construct_pq (t : Target) : (s.construct t).pq = [] := rfl
@[simp] theorem State.construct_cur (t : Target) : (s.construct t).cur = 0 := rfl
@[simp] theorem State.construct_rsp (t : Target) : (s.construct t).rsp = s.rsp := rfl
@[simp] theorem State.construct_inputs (t : Target) : (s.construct t).inputs = s.inputs := rfl

/-! ### destroy -/

@[simp] theorem State.destroy_facade : (s.destroy).facade = none := rfl
@[simp] theorem State.destroy_err : (s.destroy).err = false := rfl
@[simp] theorem State.destroy_errInfo : (s.destroy).errInfo = 0 := rfl
@[simp] theorem State.destroy_diag : (s.destroy).diag = .zero := rfl
@[simp] theorem State.destroy_seq : (s.destroy).seq = 0 := rfl
@[simp] theorem State.destroy_cmd : (s.destroy).cmd = s.cmd := rfl
@[simp] theorem State.destroy_norm : (s.destroy).norm = s.norm := rfl
@[simp] theorem State.destroy_fb : (s.destroy).fb = s.fb := rfl
@[simp] theorem State.destroy_pq : (s.destroy).pq = [] := rfl
@[simp] theorem State.destroy_cur : (s.destroy).cur = 0 := rfl
@[simp] theorem State.destroy_rsp : (s.destroy).rsp = s.rsp := rfl
@[simp] theorem State.destroy_inputs : (s.destroy).inputs = s.inputs := rfl

/-! ### normaliseStage -/

@[simp] theorem State.normaliseStage_facade (d : Descriptor) (c : ClimateCommand) : (s.normaliseStage d c).facade = s.facade := rfl
@[simp] theorem State.normaliseStage_err (d : Descriptor) (c : ClimateCommand) : (s.normaliseStage d c).err = s.err := rfl
@[simp] theorem State.normaliseStage_errInfo (d : Descriptor) (c : ClimateCommand) : (s.normaliseStage d c).errInfo = s.errInfo := rfl
@[simp] theorem State.normaliseStage_diag (d : Descriptor) (c : ClimateCommand) : (s.normaliseStage d c).diag = diagnose d c := rfl
@[simp] theorem State.normaliseStage_seq (d : Descriptor) (c : ClimateCommand) : (s.normaliseStage d c).seq = s.seq := rfl
@[simp] theorem State.normaliseStage_cmd (d : Descriptor) (c : ClimateCommand) : (s.normaliseStage d c).cmd = s.cmd := rfl
@[simp] theorem State.normaliseStage_norm (d : Descriptor) (c : ClimateCommand) : (s.normaliseStage d c).norm = some (normalise d c) := rfl
@[simp] theorem State.normaliseStage_fb (d : Descriptor) (c : ClimateCommand) : (s.normaliseStage d c).fb = s.fb := rfl
@[simp] theorem State.normaliseStage_pq (d : Descriptor) (c : ClimateCommand) : (s.normaliseStage d c).pq = s.pq := rfl
@[simp] theorem State.normaliseStage_cur (d : Descriptor) (c : ClimateCommand) : (s.normaliseStage d c).cur = s.cur := rfl
@[simp] theorem State.normaliseStage_rsp (d : Descriptor) (c : ClimateCommand) : (s.normaliseStage d c).rsp = s.rsp := rfl
@[simp] theorem State.normaliseStage_inputs (d : Descriptor) (c : ClimateCommand) : (s.normaliseStage d c).inputs = s.inputs := rfl

/-! ### buildStage -/

@[simp] theorem State.buildStage_facade (b : Built) : (s.buildStage b).facade = s.facade := rfl
@[simp] theorem State.buildStage_err (b : Built) : (s.buildStage b).err = s.err := rfl
@[simp] theorem State.buildStage_errInfo (b : Built) : (s.buildStage b).errInfo = s.errInfo := rfl
@[simp] theorem State.buildStage_diag (b : Built) : (s.buildStage b).diag = s.diag := rfl
@[simp] theorem State.buildStage_seq (b : Built) : (s.buildStage b).seq = s.seq := rfl
@[simp] theorem State.buildStage_cmd (b : Built) : (s.buildStage b).cmd = s.cmd := rfl
@[simp] theorem State.buildStage_norm (b : Built) : (s.buildStage b).norm = s.norm := rfl
@[simp] theorem State.buildStage_fb (b : Built) : (s.buildStage b).fb = some b.frames := rfl
@[simp] theorem State.buildStage_pq (b : Built) : (s.buildStage b).pq = s.pq := rfl
@[simp] theorem State.buildStage_cur (b : Built) : (s.buildStage b).cur = s.cur := rfl
@[simp] theorem State.buildStage_rsp (b : Built) : (s.buildStage b).rsp = s.rsp := rfl
@[simp] theorem State.buildStage_inputs (b : Built) : (s.buildStage b).inputs = s.inputs := rfl

/-! ### emitStage -/

@[simp] theorem State.emitStage_facade (d : Descriptor) (b : Built) : (s.emitStage d b).facade = s.facade := rfl
@[simp] theorem State.emitStage_err (d : Descriptor) (b : Built) : (s.emitStage d b).err = s.err := rfl
@[simp] theorem State.emitStage_errInfo (d : Descriptor) (b : Built) : (s.emitStage d b).errInfo = s.errInfo := rfl
@[simp] theorem State.emitStage_diag (d : Descriptor) (b : Built) : (s.emitStage d b).diag = s.diag := rfl
@[simp] theorem State.emitStage_seq (d : Descriptor) (b : Built) : (s.emitStage d b).seq = s.seq := rfl
@[simp] theorem State.emitStage_cmd (d : Descriptor) (b : Built) : (s.emitStage d b).cmd = s.cmd := rfl
@[simp] theorem State.emitStage_norm (d : Descriptor) (b : Built) : (s.emitStage d b).norm = s.norm := rfl
@[simp] theorem State.emitStage_fb (d : Descriptor) (b : Built) : (s.emitStage d b).fb = s.fb := rfl
@[simp] theorem State.emitStage_pq (d : Descriptor) (b : Built) : (s.emitStage d b).pq = ser d.timing b.plan := rfl
@[simp] theorem State.emitStage_cur (d : Descriptor) (b : Built) : (s.emitStage d b).cur = 0 := rfl
@[simp] theorem State.emitStage_rsp (d : Descriptor) (b : Built) : (s.emitStage d b).rsp = s.rsp := rfl
@[simp] theorem State.emitStage_inputs (d : Descriptor) (b : Built) : (s.emitStage d b).inputs = s.inputs := rfl

/-! ### updateStage -/

@[simp] theorem State.updateStage_facade (d : Descriptor) (fa : Facade) (n : NormCmd) : (s.updateStage d fa n).facade = some { fa with ps := .update d n fa.view } := rfl
@[simp] theorem State.updateStage_err (d : Descriptor) (fa : Facade) (n : NormCmd) : (s.updateStage d fa n).err = s.err := rfl
@[simp] theorem State.updateStage_errInfo (d : Descriptor) (fa : Facade) (n : NormCmd) : (s.updateStage d fa n).errInfo = s.errInfo := rfl
@[simp] theorem State.updateStage_diag (d : Descriptor) (fa : Facade) (n : NormCmd) : (s.updateStage d fa n).diag = s.diag := rfl
@[simp] theorem State.updateStage_seq (d : Descriptor) (fa : Facade) (n : NormCmd) : (s.updateStage d fa n).seq = s.seq + 1 := rfl
@[simp] theorem State.updateStage_cmd (d : Descriptor) (fa : Facade) (n : NormCmd) : (s.updateStage d fa n).cmd = s.cmd := rfl
@[simp] theorem State.updateStage_norm (d : Descriptor) (fa : Facade) (n : NormCmd) : (s.updateStage d fa n).norm = s.norm := rfl
@[simp] theorem State.updateStage_fb (d : Descriptor) (fa : Facade) (n : NormCmd) : (s.updateStage d fa n).fb = s.fb := rfl
@[simp] theorem State.updateStage_pq (d : Descriptor) (fa : Facade) (n : NormCmd) : (s.updateStage d fa n).pq = s.pq := rfl
@[simp] theorem State.updateStage_cur (d : Descriptor) (fa : Facade) (n : NormCmd) : (s.updateStage d fa n).cur = s.cur := rfl
@[simp] theorem State.updateStage_rsp (d : Descriptor) (fa : Facade) (n : NormCmd) : (s.updateStage d fa n).rsp = s.rsp := rfl
@[simp] theorem State.updateStage_inputs (d : Descriptor) (fa : Facade) (n : NormCmd) : (s.updateStage d fa n).inputs = s.inputs := rfl

/-! ### sampled -/

@[simp] theorem State.sampled_facade (rest : List PortInput) : (s.sampled rest).facade = s.facade := rfl
@[simp] theorem State.sampled_err (rest : List PortInput) : (s.sampled rest).err = s.err := rfl
@[simp] theorem State.sampled_errInfo (rest : List PortInput) : (s.sampled rest).errInfo = s.errInfo := rfl
@[simp] theorem State.sampled_diag (rest : List PortInput) : (s.sampled rest).diag = s.diag := rfl
@[simp] theorem State.sampled_seq (rest : List PortInput) : (s.sampled rest).seq = s.seq := rfl
@[simp] theorem State.sampled_cmd (rest : List PortInput) : (s.sampled rest).cmd = s.cmd := rfl
@[simp] theorem State.sampled_norm (rest : List PortInput) : (s.sampled rest).norm = s.norm := rfl
@[simp] theorem State.sampled_fb (rest : List PortInput) : (s.sampled rest).fb = s.fb := rfl
@[simp] theorem State.sampled_pq (rest : List PortInput) : (s.sampled rest).pq = s.pq := rfl
@[simp] theorem State.sampled_cur (rest : List PortInput) : (s.sampled rest).cur = s.cur := rfl
@[simp] theorem State.sampled_rsp (rest : List PortInput) : (s.sampled rest).rsp = none := rfl
@[simp] theorem State.sampled_inputs (rest : List PortInput) : (s.sampled rest).inputs = rest := rfl

/-! ### The two port refusals, and reset -/

@[simp] theorem State.refuseNotBound_eq : s.refuseNotBound = s.answer .notBound 0 := rfl
@[simp] theorem State.refuseIllegalOp_eq : s.refuseIllegalOp = s.answer .illegalOp 0 := rfl
@[simp] theorem State.resetPort_eq (rest : List PortInput) :
    State.resetPort rest = { State.reset with inputs := rest } := rfl

/-! ### take -/

/-- Taking a duration that is not the last moves the cursor and nothing else (R27). -/
theorem State.take_of_lt (h : s.cur + 1 < s.pq.length) : s.take = { s with cur := s.cur + 1 } := if_pos h

/-- Taking the last duration empties the queue and does nothing else (R27). -/
theorem State.take_of_not_lt (h : ¬ s.cur + 1 < s.pq.length) : s.take = { s with pq := [], cur := 0 } := if_neg h

@[simp] theorem State.take_facade : s.take.facade = s.facade := by unfold State.take; split <;> rfl
@[simp] theorem State.take_err : s.take.err = s.err := by unfold State.take; split <;> rfl
@[simp] theorem State.take_errInfo : s.take.errInfo = s.errInfo := by unfold State.take; split <;> rfl
@[simp] theorem State.take_diag : s.take.diag = s.diag := by unfold State.take; split <;> rfl
@[simp] theorem State.take_seq : s.take.seq = s.seq := by unfold State.take; split <;> rfl
@[simp] theorem State.take_cmd : s.take.cmd = s.cmd := by unfold State.take; split <;> rfl
@[simp] theorem State.take_norm : s.take.norm = s.norm := by unfold State.take; split <;> rfl
@[simp] theorem State.take_fb : s.take.fb = s.fb := by unfold State.take; split <;> rfl
@[simp] theorem State.take_rsp : s.take.rsp = s.rsp := by unfold State.take; split <;> rfl
@[simp] theorem State.take_inputs : s.take.inputs = s.inputs := by unfold State.take; split <;> rfl

end Sys2Proof.Machine
end

