-- ==== Sys2Proof/Laws/Ops.lean ====
section
/-! SUPPORT. What each shared operation can do, said once: the exception, GENERATE, QUERY. -/

namespace Sys2Proof.Machine

/-- The layout of BINDING and ERR_INFO as a number (spec/10_state.md R26, R37). -/
theorem brandVariantWord_toNat (b : BitVec 8) (v : BitVec 4) :
    (brandVariantWord b v).toNat = v.toNat * 256 + b.toNat := by
  have e : brandVariantWord b v = 0#20 ++ v ++ b := by
    unfold brandVariantWord
    refine BitVec.eq_of_getLsbD_eq fun i hi => ?_
    simp only [BitVec.getLsbD_append, BitVec.getLsbD_or]
    interval_cases i <;> simp
  rw [e]
  simp only [toNat_append_add, BitVec.toNat_ofNat]
  omega

/-- Taking the exception (spec/60_exceptions.md R414): ERR, ERR_INFO and the response change, and nothing else that holds a
value between operations. -/
theorem raiseUnsupportedBrand_eq (b : BitVec 8) (v : BitVec 4) (s : State) :
    s.raiseUnsupportedBrand b v =
      { s with err := true, errInfo := brandVariantWord b v, rsp := some ⟨.unsupportedBrand, brandVariantWord b v⟩
               cmd := none, norm := none, fb := none } := rfl

/-- GENERATE on an unbound instance (spec/40_facade_ops.md R146). -/
theorem generate_unbound (c : Configuration) (b : Builder) (cmd : ClimateCommand) (s : State) (h : s.facade = none) :
    generate c b cmd s = s.answer .notBound 0 := by
  simp only [generate, h]
  rfl

/-- GENERATE on a bound instance, register by register (spec/40_facade_ops.md R147, R152, R153, R155). -/
theorem generate_bound (c : Configuration) (b : Builder) (cmd : ClimateCommand) (s : State) (fa : Facade)
    (h : s.facade = some fa) :
    generate c b cmd s =
      let d := c.desc fa.target
      let n := normalise d cmd
      let p := b n fa.view
      { s with
        facade := some { fa with ps := .update d n fa.view }, diag := diagnose d cmd, seq := s.seq + 1
        pq := ser d.timing p.plan, cur := 0
        rsp := some ⟨.ok, BitVec.ofNat 32 (ser d.timing p.plan).length⟩
        cmd := none, norm := none, fb := none } := by
  simp only [generate, h]
  rfl

/-- The same in the terms of the claims. -/
theorem accepted_generate (b : Builder) (cmd : ClimateCommand) (s : State) (fa : Facade) (h : s.facade = some fa) :
    Accepted s (generate theConfig b cmd s) fa cmd (normalise (theConfig.desc fa.target) cmd)
      (b (normalise (theConfig.desc fa.target) cmd) fa.view).plan := by
  rw [generate_bound _ _ _ _ _ h]
  exact ⟨rfl, rfl, rfl, rfl, rfl, rfl, rfl, rfl, ⟨rfl, rfl, rfl⟩, rfl⟩

/-- The row of GENERATE that a binding chooses runs that binding's builder (spec/30_encoding.md R107). -/
theorem exec_generate (t : Target) (cmd : ClimateCommand) (s : State) :
    exec (t.generate cmd) s = .next (generate theConfig (builderOf theConfig t) cmd s) := by
  cases t <;> rfl

/-- GENERATE changes neither the binding nor the error record (spec/10_state.md R22, R26). -/
theorem generate_frame (c : Configuration) (b : Builder) (cmd : ClimateCommand) (s : State) :
    (generate c b cmd s).binding = s.binding ∧ (generate c b cmd s).err = s.err ∧
      (generate c b cmd s).errInfo = s.errInfo ∧ (generate c b cmd s).inputs = s.inputs := by
  unfold generate State.binding
  split <;> simp [*]

/-- A QUERY that needs a binding, on a bound instance (spec/40_facade_ops.md R160 to R165, R168). -/
theorem queryBound_some (q : BitVec 4) (value : Facade → Word) (s : State) (fa : Facade) (h : s.facade = some fa) :
    queryBound q value s = { s with rsp := some ⟨.ok, value fa⟩, cmd := none, norm := none, fb := none } := by
  have e : queryBound q value s = (s.load (.query q)).answer .ok (value fa) := by simp only [queryBound, h]
  rw [e]
  rfl

/-- A QUERY that needs a binding, on an unbound instance (spec/40_facade_ops.md R146). -/
theorem queryBound_none (q : BitVec 4) (value : Facade → Word) (s : State) (h : s.facade = none) :
    queryBound q value s = { s with rsp := some ⟨.notBound, 0⟩, cmd := none, norm := none, fb := none } := by
  have e : queryBound q value s = s.refuseNotBound := by simp only [queryBound, h]
  rw [e]
  rfl

/-- A QUERY that works bound or unbound (spec/40_facade_ops.md R166, R167). -/
theorem queryAlways_eq (q : BitVec 4) (value : State → Word) (s : State) :
    queryAlways q value s = { s with rsp := some ⟨.ok, value s⟩, cmd := none, norm := none, fb := none } := rfl

/-- A QUERY changes no register (spec/10_state.md R39). -/
theorem queryBound_frame (q : BitVec 4) (value : Facade → Word) (s : State) :
    (queryBound q value s).facade = s.facade ∧ (queryBound q value s).err = s.err ∧
      (queryBound q value s).errInfo = s.errInfo ∧ (queryBound q value s).diag = s.diag ∧
      (queryBound q value s).seq = s.seq ∧ (queryBound q value s).pq = s.pq ∧ (queryBound q value s).cur = s.cur ∧
      (queryBound q value s).inputs = s.inputs := by
  cases h : s.facade with
  | none => simp [queryBound_none _ _ _ h, h]
  | some fa => simp [queryBound_some _ _ _ _ h, h]

end Sys2Proof.Machine
end

