-- ==== Sys2Proof/Laws/PerInstr.lean ====
section
/-! SUPPORT. One statement about every instruction as syntax: the word the encoder writes for it is canonical. Whatever the
binding, the word decodes to an instruction with the same word, and its reserved fields are 0 (spec/30_encoding.md R103,
R107, R114). -/

namespace Sys2Proof.Laws

/-- Under any binding the word of `i` decodes to an instruction whose word it is. -/
def CanonicalWord.Statement (i : Instr) : Prop := ∀ b : Option Target, encode (decode b (encode i)) = encode i

/-- For a row of GENERATE: the row that the binding chooses has the same word. -/
theorem CanonicalWord.of_generate (i : Instr) (c : ClimateCommand) (h : encode i = encodeGenerate c) :
    CanonicalWord.Statement i := by
  intro b
  rw [h, decode_encodeGenerate, encode_decodeGenerate]

theorem CanonicalWord.resolve (brand : BitVec 8) (variant : BitVec 4) : CanonicalWord.Statement (.resolve brand variant) :=
  fun b => by rw [encode, decode_encodeResolve, encode]

theorem CanonicalWord.generateLg (cmd : ClimateCommand) : CanonicalWord.Statement (.generateLg cmd) :=
  CanonicalWord.of_generate _ cmd rfl

theorem CanonicalWord.generateWhynter (cmd : ClimateCommand) : CanonicalWord.Statement (.generateWhynter cmd) :=
  CanonicalWord.of_generate _ cmd rfl

theorem CanonicalWord.generateYashima (cmd : ClimateCommand) : CanonicalWord.Statement (.generateYashima cmd) :=
  CanonicalWord.of_generate _ cmd rfl

theorem CanonicalWord.generateBallu (cmd : ClimateCommand) : CanonicalWord.Statement (.generateBallu cmd) :=
  CanonicalWord.of_generate _ cmd rfl

theorem CanonicalWord.generateTcl (cmd : ClimateCommand) : CanonicalWord.Statement (.generateTcl cmd) :=
  CanonicalWord.of_generate _ cmd rfl

theorem CanonicalWord.generateMitsubishi (cmd : ClimateCommand) : CanonicalWord.Statement (.generateMitsubishi cmd) :=
  CanonicalWord.of_generate _ cmd rfl

theorem CanonicalWord.generateMidea (cmd : ClimateCommand) : CanonicalWord.Statement (.generateMidea cmd) :=
  CanonicalWord.of_generate _ cmd rfl

theorem CanonicalWord.generateGree (cmd : ClimateCommand) : CanonicalWord.Statement (.generateGree cmd) :=
  CanonicalWord.of_generate _ cmd rfl

theorem CanonicalWord.generateFujitsu (cmd : ClimateCommand) : CanonicalWord.Statement (.generateFujitsu cmd) :=
  CanonicalWord.of_generate _ cmd rfl

theorem CanonicalWord.generateNec (cmd : ClimateCommand) : CanonicalWord.Statement (.generateNec cmd) :=
  CanonicalWord.of_generate _ cmd rfl

theorem CanonicalWord.generateCoolix (cmd : ClimateCommand) : CanonicalWord.Statement (.generateCoolix cmd) :=
  CanonicalWord.of_generate _ cmd rfl

theorem CanonicalWord.generateWhirlpool (cmd : ClimateCommand) : CanonicalWord.Statement (.generateWhirlpool cmd) :=
  CanonicalWord.of_generate _ cmd rfl

theorem CanonicalWord.generateToshibaGeneric (cmd : ClimateCommand) : CanonicalWord.Statement (.generateToshibaGeneric cmd) :=
  CanonicalWord.of_generate _ cmd rfl

theorem CanonicalWord.generateToshibaRas2819t (cmd : ClimateCommand) : CanonicalWord.Statement (.generateToshibaRas2819t cmd) :=
  CanonicalWord.of_generate _ cmd rfl

theorem CanonicalWord.generateToshibaRacPt1411hwru (cmd : ClimateCommand) : CanonicalWord.Statement (.generateToshibaRacPt1411hwru cmd) :=
  CanonicalWord.of_generate _ cmd rfl

theorem CanonicalWord.generateDaikin (cmd : ClimateCommand) : CanonicalWord.Statement (.generateDaikin cmd) :=
  CanonicalWord.of_generate _ cmd rfl

theorem CanonicalWord.generateHitachi (cmd : ClimateCommand) : CanonicalWord.Statement (.generateHitachi cmd) :=
  CanonicalWord.of_generate _ cmd rfl

theorem CanonicalWord.generateUnbound (cmd : ClimateCommand) : CanonicalWord.Statement (.generateUnbound cmd) :=
  CanonicalWord.of_generate _ cmd rfl

theorem CanonicalWord.queryTemperatureMin : CanonicalWord.Statement (.queryTemperatureMin) :=
  fun _ => rfl

theorem CanonicalWord.queryTemperatureMax : CanonicalWord.Statement (.queryTemperatureMax) :=
  fun _ => rfl

theorem CanonicalWord.queryTemperatureStep : CanonicalWord.Statement (.queryTemperatureStep) :=
  fun _ => rfl

theorem CanonicalWord.querySupportedHvacModes : CanonicalWord.Statement (.querySupportedHvacModes) :=
  fun _ => rfl

theorem CanonicalWord.querySupportedFanModes : CanonicalWord.Statement (.querySupportedFanModes) :=
  fun _ => rfl

theorem CanonicalWord.querySupportedSwingModes : CanonicalWord.Statement (.querySupportedSwingModes) :=
  fun _ => rfl

theorem CanonicalWord.queryBrandList : CanonicalWord.Statement (.queryBrandList) :=
  fun _ => rfl

theorem CanonicalWord.queryReservedSelector : CanonicalWord.Statement (.queryReservedSelector) :=
  fun _ => rfl

theorem CanonicalWord.queryStatus : CanonicalWord.Statement (.queryStatus) :=
  fun _ => rfl

theorem CanonicalWord.queryBinding : CanonicalWord.Statement (.queryBinding) :=
  fun _ => rfl

theorem CanonicalWord.queryPsFlags : CanonicalWord.Statement (.queryPsFlags) :=
  fun _ => rfl

theorem CanonicalWord.queryPrevTemp : CanonicalWord.Statement (.queryPrevTemp) :=
  fun _ => rfl

theorem CanonicalWord.queryPrevMode : CanonicalWord.Statement (.queryPrevMode) :=
  fun _ => rfl

theorem CanonicalWord.queryModeTrans : CanonicalWord.Statement (.queryModeTrans) :=
  fun _ => rfl

theorem CanonicalWord.querySeq : CanonicalWord.Statement (.querySeq) :=
  fun _ => rfl

theorem CanonicalWord.queryErrInfo : CanonicalWord.Statement (.queryErrInfo) :=
  fun _ => rfl

theorem CanonicalWord.release : CanonicalWord.Statement (.release) :=
  fun _ => rfl

theorem CanonicalWord.reservedOp0 : CanonicalWord.Statement (.reservedOp0) :=
  fun _ => rfl

theorem CanonicalWord.reservedOp5 : CanonicalWord.Statement (.reservedOp5) :=
  fun _ => rfl

theorem CanonicalWord.reservedOp6 : CanonicalWord.Statement (.reservedOp6) :=
  fun _ => rfl

theorem CanonicalWord.reservedOp7 : CanonicalWord.Statement (.reservedOp7) :=
  fun _ => rfl

theorem CanonicalWord.reservedOp8 : CanonicalWord.Statement (.reservedOp8) :=
  fun _ => rfl

theorem CanonicalWord.reservedOp9 : CanonicalWord.Statement (.reservedOp9) :=
  fun _ => rfl

theorem CanonicalWord.reservedOpA : CanonicalWord.Statement (.reservedOpA) :=
  fun _ => rfl

theorem CanonicalWord.reservedOpB : CanonicalWord.Statement (.reservedOpB) :=
  fun _ => rfl

theorem CanonicalWord.reservedOpC : CanonicalWord.Statement (.reservedOpC) :=
  fun _ => rfl

theorem CanonicalWord.reservedOpD : CanonicalWord.Statement (.reservedOpD) :=
  fun _ => rfl

theorem CanonicalWord.reservedOpE : CanonicalWord.Statement (.reservedOpE) :=
  fun _ => rfl

theorem CanonicalWord.reservedOpF : CanonicalWord.Statement (.reservedOpF) :=
  fun _ => rfl

end Sys2Proof.Laws
end

