-- ==== Sys2Proof/Laws/Step.lean ====
section
/-! SUPPORT. What a step and a run can do. -/

namespace Sys2Proof

/-- Every word decodes to an instruction that stands under the binding (spec/30_encoding.md R107, R114). -/
theorem wellFormed_decode (b : Option Target) (cw : Word) : (decode b cw).wellFormed b = true := by
  unfold decode
  split <;> first | rfl | exact wellFormed_decodeGenerate _ _ | exact wellFormed_decodeQuery _ _

namespace Machine

/-- No meaning faults or refuses (spec/60_exceptions.md R415, R422). -/
theorem exec_next (i : Instr) (s : State) : ∃ t, exec i s = .next t := by
  cases i <;> exact ⟨_, rfl⟩

/-- Everything a step can do: idle, reset, execute the command offered, let a duration be taken, or wait. -/
theorem step_cases (s : State) :
    (s.inputs = [] ∧ step s = .next (s.sampled [])) ∨
    ∃ p rest, s.inputs = p :: rest ∧
      ((p.rst = true ∧ step s = .next { State.reset with inputs := rest }) ∨
       (p.rst = false ∧ ¬ s.cur < s.pq.length ∧ p.cmdValid = true ∧
          step s = exec (decode s.binding p.cmdWord) (s.sampled rest)) ∨
       (p.rst = false ∧ ¬ s.cur < s.pq.length ∧ p.cmdValid = false ∧ step s = .next (s.sampled rest)) ∨
       (p.rst = false ∧ s.cur < s.pq.length ∧ p.pulseReady = true ∧ step s = .next (s.sampled rest).take) ∨
       (p.rst = false ∧ s.cur < s.pq.length ∧ p.pulseReady = false ∧ step s = .next (s.sampled rest))) := by
  rcases h : s.inputs with _ | ⟨p, rest⟩
  · exact .inl ⟨rfl, by simp [step, h]⟩
  · refine .inr ⟨p, rest, rfl, ?_⟩
    by_cases hc : s.cur < s.pq.length <;> rcases hr : p.rst <;> rcases hv : p.cmdValid <;> rcases hp : p.pulseReady <;>
      simp [step, serve, h, hr, hv, hp, hc, State.cmdReady, State.pulseValid]

/-- A step always answers a next state (spec/70_reset_and_hazards.md R469). -/
theorem step_next (s : State) : ∃ t, step s = .next t := by
  rcases step_cases s with ⟨_, h⟩ | ⟨p, rest, _, ⟨_, h⟩ | ⟨_, _, _, h⟩ | ⟨_, _, _, h⟩ | ⟨_, _, _, h⟩ | ⟨_, _, _, h⟩⟩
  all_goals first | exact ⟨_, h⟩ | (rw [h]; exact exec_next _ _)

/-- A run whose first step answers a next state goes on from there. -/
theorem run_next (M : Host.Core) (n : Nat) (s t : M.State) (h : M.step s = .next t) : M.run (n + 1) s = M.run n t := by
  rw [Host.Core.run.eq_def]
  simp only [h]

/-- The same for this machine. -/
theorem run_succ (n : Nat) (s t : State) (h : step s = .next t) :
    Host.Core.run Sys2Proof.core (n + 1) s = Host.Core.run Sys2Proof.core n t :=
  run_next Sys2Proof.core n s t h

end Machine

end Sys2Proof
end

