-- ==== Sys2Proof/Machine/Families.lean ====
section
/-! DEFINITION. The strategy shapes and the family membership table (spec/43_frame_families.md R251, R256): the descriptor
field `b.family` (spec/00_scope.md R8). No operation reads it; the builders are the compositions their own rules give. -/

namespace Sys2Proof.Machine

/-- The four shapes (R251). -/
inductive Shape where
  | flatWord | byteArray | lookupTemp | toggleMulti
  deriving DecidableEq, Repr

end Sys2Proof.Machine

namespace Sys2Proof

open Machine

/-- `b.family` of each (brand, variant) (R256). -/
def Target.family : Target → List Shape
  | .lg => [.flatWord]
  | .whynter => [.flatWord]
  | .yashima => [.flatWord, .lookupTemp]
  | .ballu => [.byteArray]
  | .tcl => [.byteArray]
  | .mitsubishi => [.byteArray, .toggleMulti]
  | .midea => [.byteArray]
  | .coolix => [.byteArray, .lookupTemp, .toggleMulti]
  | .toshibaRacPt1411hwru => [.byteArray, .lookupTemp, .toggleMulti]
  | .toshibaRas2819t => [.byteArray, .toggleMulti]
  | .toshibaGeneric => [.byteArray, .toggleMulti]
  | .whirlpool => [.byteArray, .toggleMulti]
  | .daikin => [.byteArray, .toggleMulti]
  | .hitachi => [.byteArray, .toggleMulti]
  | .gree _ => [.byteArray]
  | .fujitsu => [.byteArray]
  | .nec => [.byteArray]

end Sys2Proof
end

