-- ==== Sys2Proof/Tests/Slice0.lean ====
section
/-! SUPPORT. The model's own tests. Expected values are written out from the encodings of spec/30_encoding.md and from the
vectors of spec/95_test_vectors.md (their numbers stand at each test); the toy configuration T1 is the one of those vectors.
The theorems `witness_…` show for each statement with hypotheses that some input meets them. -/

namespace Sys2Proof.Tests

open Sys2Proof.Machine

/-! ### Well-formed instructions -/

/-- Operands for the checks below. -/
def someCmd : ClimateCommand := ⟨2, 3, 0, 0x30⟩

/-- A GENERATE row is refused under another brand's binding, and so is the unbound row under any (R107). -/
theorem test_wellFormed_refuses :
    (Instr.generateLg someCmd).wellFormed (some .coolix) = false ∧
    (Instr.generateWhynter someCmd).wellFormed (some .lg) = false ∧
    (Instr.generateYashima someCmd).wellFormed (some .whynter) = false ∧
    (Instr.generateBallu someCmd).wellFormed (some .tcl) = false ∧
    (Instr.generateTcl someCmd).wellFormed (some .ballu) = false ∧
    (Instr.generateMitsubishi someCmd).wellFormed (some .midea) = false ∧
    (Instr.generateMidea someCmd).wellFormed (some .mitsubishi) = false ∧
    (Instr.generateGree someCmd).wellFormed (some .fujitsu) = false ∧
    (Instr.generateFujitsu someCmd).wellFormed (some (.gree 6)) = false ∧
    (Instr.generateNec someCmd).wellFormed none = false ∧
    (Instr.generateCoolix someCmd).wellFormed (some .lg) = false ∧
    (Instr.generateWhirlpool someCmd).wellFormed none = false ∧
    (Instr.generateToshibaGeneric someCmd).wellFormed (some .toshibaRas2819t) = false ∧
    (Instr.generateToshibaRas2819t someCmd).wellFormed (some .toshibaRacPt1411hwru) = false ∧
    (Instr.generateToshibaRacPt1411hwru someCmd).wellFormed (some .toshibaGeneric) = false ∧
    (Instr.generateDaikin someCmd).wellFormed (some .hitachi) = false ∧
    (Instr.generateHitachi someCmd).wellFormed (some .daikin) = false ∧
    (Instr.generateUnbound someCmd).wellFormed (some .lg) = false := by decide

/-! ### Decoding: op 31:28; RESOLVE brand 27:20, variant 19:16; GENERATE mode 27:24, fan 23:20, swing 19:16, temp 15:0;
QUERY sel 27:24 (R90 to R93) -/

/-- `0001 00001001 1111 0…0` (vector E14) and `0001 11111111 0011 0…0` (vector E17). -/
theorem test_decode_resolve :
    decode none 0x109F0000 = .resolve 9 15 ∧ decode (some .coolix) 0x1FF30000 = .resolve 0xFF 3 := by decide

/-- `0010 0010 0011 0000 0000000000110000` (vector K5) under each binding, and `0010 0110 0100 0001 …` (vector K8). -/
theorem test_decode_generate :
    decode (some .lg) 0x22300030 = .generateLg ⟨2, 3, 0, 0x30⟩ ∧
    decode (some .whynter) 0x22300030 = .generateWhynter ⟨2, 3, 0, 0x30⟩ ∧
    decode (some .yashima) 0x22300030 = .generateYashima ⟨2, 3, 0, 0x30⟩ ∧
    decode (some .ballu) 0x22300030 = .generateBallu ⟨2, 3, 0, 0x30⟩ ∧
    decode (some .tcl) 0x22300030 = .generateTcl ⟨2, 3, 0, 0x30⟩ ∧
    decode (some .mitsubishi) 0x22300030 = .generateMitsubishi ⟨2, 3, 0, 0x30⟩ ∧
    decode (some .midea) 0x22300030 = .generateMidea ⟨2, 3, 0, 0x30⟩ ∧
    decode (some (.gree 6)) 0x22300030 = .generateGree ⟨2, 3, 0, 0x30⟩ ∧
    decode (some .fujitsu) 0x22300030 = .generateFujitsu ⟨2, 3, 0, 0x30⟩ ∧
    decode (some .nec) 0x22300030 = .generateNec ⟨2, 3, 0, 0x30⟩ ∧
    decode (some .coolix) 0x22300030 = .generateCoolix ⟨2, 3, 0, 0x30⟩ ∧
    decode (some .whirlpool) 0x22300030 = .generateWhirlpool ⟨2, 3, 0, 0x30⟩ ∧
    decode (some .toshibaGeneric) 0x22300030 = .generateToshibaGeneric ⟨2, 3, 0, 0x30⟩ ∧
    decode (some .toshibaRas2819t) 0x22300030 = .generateToshibaRas2819t ⟨2, 3, 0, 0x30⟩ ∧
    decode (some .toshibaRacPt1411hwru) 0x22300030 = .generateToshibaRacPt1411hwru ⟨2, 3, 0, 0x30⟩ ∧
    decode (some .daikin) 0x22300030 = .generateDaikin ⟨2, 3, 0, 0x30⟩ ∧
    decode (some .hitachi) 0x22300030 = .generateHitachi ⟨2, 3, 0, 0x30⟩ ∧
    decode none 0x26410030 = .generateUnbound ⟨6, 4, 1, 0x30⟩ := by decide

/-- `0011 nnnn 0…0` for each selector (vectors K10, K11, E13). -/
theorem test_decode_query :
    decode none 0x30000000 = .queryTemperatureMin ∧ decode none 0x31000000 = .queryTemperatureMax ∧
    decode none 0x32000000 = .queryTemperatureStep ∧ decode none 0x33000000 = .querySupportedHvacModes ∧
    decode none 0x34000000 = .querySupportedFanModes ∧ decode none 0x35000000 = .querySupportedSwingModes ∧
    decode none 0x36000000 = .queryBrandList ∧ decode none 0x37000000 = .queryReservedSelector ∧
    decode none 0x38000000 = .queryStatus ∧ decode none 0x39000000 = .queryBinding ∧
    decode none 0x3A000000 = .queryPsFlags ∧ decode none 0x3B000000 = .queryPrevTemp ∧
    decode none 0x3C000000 = .queryPrevMode ∧ decode none 0x3D000000 = .queryModeTrans ∧
    decode none 0x3E000000 = .querySeq ∧ decode none 0x3F000000 = .queryErrInfo := by decide

/-- RELEASE (vector K12) and the reserved operation codes (R102, vectors E10 to E12). -/
theorem test_decode_rest :
    decode none 0x40000000 = .release ∧ decode none 0x00000000 = .reservedOp0 ∧ decode none 0x50000000 = .reservedOp5 ∧
    decode none 0x60000000 = .reservedOp6 ∧ decode none 0x70000000 = .reservedOp7 ∧ decode none 0x80000000 = .reservedOp8 ∧
    decode none 0x90000000 = .reservedOp9 ∧ decode none 0xA0000000 = .reservedOpA ∧ decode none 0xB0000000 = .reservedOpB ∧
    decode none 0xC0000000 = .reservedOpC ∧ decode none 0xD0000000 = .reservedOpD ∧ decode none 0xE0000000 = .reservedOpE ∧
    decode none 0xF1234567 = .reservedOpF := by decide

/-- Reserved fields are ignored (R103; the words under spec/95_test_vectors.md section 3). -/
theorem test_decode_reserved_fields :
    decode none 0x100FABCD = .resolve 0 15 ∧ decode none 0x30FFFFFF = .queryTemperatureMin ∧
    decode none 0x4FFFFFFF = .release ∧ decodeTableWord 32 0x30FFFFFF = some .queryTemperatureMin ∧
    decodeTableWord 40 0 = none := by decide

/-- Vectors K1 to K9 and K12, from the text form to the word. -/
theorem test_assemble :
    assemble (.resolve (.name .lg) none) = 0x100F0000 ∧ assemble (.resolve (.name .toshiba) (some 1)) = 0x10310000 ∧
    assemble (.resolve (.name .gree) (some 6)) = 0x10560000 ∧ assemble (.resolve (.number 0x20) none) = 0x120F0000 ∧
    assemble (.gen (.name .cool) 48 (.name .high) (.name .off)) = 0x22300030 ∧
    assemble (.gen (.name .cool) 47 (.name .auto) (.name .off)) = 0x2200002F ∧
    assemble (.gen (.name .cool) (-10) (.name .medium) (.name .off)) = 0x2220FFF6 ∧
    assemble (.gen (.name .heatCool) 48 (.name .quiet) (.name .vertical)) = 0x26410030 ∧
    assemble (.gen (.number 9) 48 (.number 15) (.number 7)) = 0x29F70030 ∧ assemble .release = 0x40000000 := by decide

/-- The text of lines (R111; spec/95_test_vectors.md section 9). -/
theorem test_text :
    (Asm.gen (.name .cool) 47 (.name .high) (.name .off)).text = "GEN Cool, 23.5, High, Off" ∧
    (Asm.gen (.number 9) (-10) (.number 15) (.number 7)).text = "GEN 9, -5, 15, 7" ∧
    (Asm.resolve (.name .gree) (some 6)).text = "RESOLVE GREE, 6" ∧ (Asm.query 8).text = "QUERY STATUS" := by decide

/-! ### Arithmetic -/

/-- Vectors A1 to A8, A11 to A13. -/
theorem test_sums :
    sum8 [] = 0 ∧ sum8 [0xC3, 0xFF, 0x40] = 0x02 ∧ xor8 [0xC3, 0xFF, 0x40] = 0x7C ∧ nibsum 0x8800940 = 0xD ∧
    nibsum 0xFFFFFF0 = 0xA ∧ nibsum 0x88C0050 = 0x1 ∧ put [0xFF, 0xFF] 1 4 0xF 0x3 = [0xFF, 0x3F] ∧
    put [0x00] 0 5 0x1 3 = [0x20] ∧ putw 0x8800040 8 0xF 9 = 0x8800940 := by decide

/-- Vectors A9, A14 to A19, A24. -/
theorem test_bits :
    rev8 0x1D = 0xB8 ∧ rev8 0x12 = 0x48 ∧ invertPairs [0x01, 0x10, 0x00, 0xAA, 0x12, 0xBB] 3 = [0x01, 0x10, 0, 0xFF, 0x12, 0xED] ∧
    invertPairs [1, 2, 3, 4, 5, 6, 7] 3 = [1, 2, 3, 0xFC, 5, 0xFA, 7] ∧ invertPairs [9, 8, 7] 3 = [9, 8, 7] ∧
    bitsOfByte .lsbFirst 0x1D = [true, false, true, true, true, false, false, false] ∧
    bitsOfByte .msbFirst 0x1D = [false, false, false, true, true, true, false, true] ∧
    (floorHalf (-11), half (-11)) = (-6, 1) ∧ (floorHalf 47, half 47) = (23, 1) := by decide

/-- A segment of the vectors of spec/95_test_vectors.md section 4. -/
def h1 : Option (Dur × Dur) := some (9000, 4500)

/-- Vectors S1 to S4. -/
theorem test_serSeg :
    serSeg Toy.tp1 ⟨h1, [true, false], .mark 500⟩ = [9000, 4500, 500, 1500, 500, 500, 500] ∧
    serSeg Toy.tp1 ⟨h1, [], .mark 500⟩ = [9000, 4500, 500] ∧
    serSeg Toy.tp1 ⟨none, [false, true], .none⟩ = [500, 500, 500, 1500] ∧
    serSeg Toy.tp1 ⟨h1, [true], .markGap 500 20000⟩ = [9000, 4500, 500, 1500, 500, 20000] := by decide

/-- The lengths of vectors S5 to S7, and vector S9. -/
theorem test_plans :
    let d := Toy.base1 32 60 4 .none
    (ser Toy.tp1 (planRepeat d 2 (planSingle d (.bytes [0x01])))).length = 39 ∧
    (ser Toy.tp1 (planBlocks d [.bytes [0x01], .bytes [0x80]])).length = 39 ∧
    (ser Toy.tp1 (planSplit { d with plan := { Toy.plan1 with splits := [1] } } [0x01, 0x80])).length = 37 ∧
    ser Toy.tp1 (planRepeat d 2 [⟨h1, [true], .markGap 500 40000⟩]) =
      [9000, 4500, 500, 1500, 500, 17000, 9000, 4500, 500, 1500, 500, 40000] := by decide

/-! ### GENERATE with T1 -/

/-- An instance right after a RESOLVE of `t` (R35). -/
def bound (t : Target) : State := { State.reset with facade := some ⟨t, .fresh⟩ }

set_option maxRecDepth 8000

/-- The state after the GENERATE word `cw`, over T1. -/
def gen (cw : Word) (s : State) : State :=
  match s.facade with
  | none => generate Toy.t1 (buildLg Toy.t1) (climateField cw) s
  | some fa => generate Toy.t1 (builderOf Toy.t1 fa.target) (climateField cw) s

/-- The frames that the GENERATE word `cw` forms in `s`, over T1. -/
def framesOf (cw : Word) (s : State) : List Frame :=
  match s.facade with
  | none => []
  | some fa => (builderOf Toy.t1 fa.target (normalise (Toy.t1.desc fa.target) (climateField cw)) fa.view).frames

/-- What a caller reads after a GENERATE: how many durations, PS_FLAGS, DIAG. -/
def seen (s : State) : Option Word × Word × Word :=
  (s.rsp.map Response.data, (match s.facade with | none => 0 | some fa => fa.ps.flags), s.diag.bits)

/-- Vectors F1 and F11: the word, and clamping of a negative temperature. -/
theorem test_generateLg :
    framesOf 0x22300030 (bound .lg) = [.word 28 0x880094D] ∧ framesOf 0x2220FFF6 (bound .lg) = [.word 28 0x8800325] := by
  decide

/-- Vectors F1, F9: what the caller reads. -/
theorem test_generateLg_seen :
    seen (gen 0x22300030 (bound .lg)) = (some 59, 5, 0) ∧ seen (gen 0x26410030 (bound .lg)) = (some 59, 5, 6) := by decide

/-- Vector W1. -/
theorem test_generateWhynter :
    framesOf 0x2200002C (bound .whynter) = [.word 32 0x48846880] ∧ seen (gen 0x2200002C (bound .whynter)) = (some 67, 5, 2) := by
  decide

/-- Vectors Y3 and Y5. -/
theorem test_generateYashima :
    framesOf 0x2210002C (bound .yashima) = [.bytes [0x02, 0x51, 0x02, 0, 0, 0, 0, 0, 0]] ∧
    seen (gen 0x2200003C (bound .yashima)) = (some 147, 5, 1) := by decide

/-- Vector B1. -/
theorem test_generateBallu :
    framesOf 0x2110002C (bound .ballu) = [.bytes [0xC3, 0x77, 0, 0, 0x01, 0, 0x20, 0, 0, 0, 0, 0, 0x5B]] := by decide

/-- Vectors B4 and B10. -/
theorem test_generateTcl :
    framesOf 0x2200002F (bound .tcl) = [.bytes [0x23, 0xCB, 0x26, 1, 0, 0x24, 2, 8, 0, 0, 0, 0, 0x20, 0x63]] ∧
    framesOf 0x2200FFF6 (bound .tcl) = [.bytes [0x23, 0xCB, 0x26, 1, 0, 0x24, 2, 0x0F, 0, 0, 0, 0, 0, 0x4A]] := by decide

/-- Vector B12. -/
theorem test_generateMitsubishi :
    framesOf 0x22000030 (bound .mitsubishi) = [.bytes [0x23, 0x20, 0x18, 0x5B]] ∧
    seen (gen 0x22000030 (bound .mitsubishi)) = (some 135, 5, 0) := by decide

/-- Vector B13. -/
theorem test_generateMidea :
    framesOf 0x22100030 (bound .midea) = [.bytes [0xA1, 0x21, 0x18, 0x98]] ∧
    seen (gen 0x22100030 (bound .midea)) = (some 67, 5, 0) := by decide

/-- Vectors B14 and B15: the two checksum branches. -/
theorem test_generateGree :
    framesOf 0x22110030 (bound (.gree 0)) = [.bytes [0x12, 0x08, 0x20, 0x40]] ∧
    framesOf 0x22110030 (bound (.gree 6)) = [.bytes [0x12, 0x08, 0x20, 0xF0]] := by decide

/-- Vector B16. -/
theorem test_generateFujitsu :
    framesOf 0x23430032 (bound .fujitsu) = [.bytes [0x14, 0x63, 0x34, 0x67]] ∧
    seen (gen 0x23430032 (bound .fujitsu)) = (some 67, 7, 0) := by decide

/-- Vector B17: an unknown mode becomes the default. -/
theorem test_generateNec :
    framesOf 0x29000030 (bound .nec) = [.bytes [0x00, 0xFF, 0x48, 0xB7]] ∧
    seen (gen 0x29000030 (bound .nec)) = (some 67, 5, 2) := by decide

/-- Vectors T1a, T1b, T1c. -/
theorem test_generateCoolix :
    let s1 := gen 0x22010030 (bound .coolix)
    let s2 := gen 0x22010030 s1
    framesOf 0x22010030 (bound .coolix) = [.bytes [0xB2, 0x6B, 0xE0, 0xFD]] ∧
    framesOf 0x22010030 s1 = [.bytes [0xB2, 0x1F, 0x42, 0x13]] ∧
    framesOf 0x22000030 s2 = [.bytes [0xB2, 0x6B, 0xE0, 0xFD]] ∧ seen s2 = (some 67, 7, 0) := by decide

/-- Vectors T3a, T3b, T3c. -/
theorem test_generateWhirlpool :
    let s1 := gen 0x22000030 (bound .whirlpool)
    framesOf 0x22000030 (bound .whirlpool) = [.bytes [0x83, 0x06, 0x04, 0x62, 0, 0, 0, 0xE3]] ∧
    framesOf 0x22000030 s1 = [.bytes [0x83, 0x06, 0x00, 0x62, 0, 0, 0, 0xE7]] ∧
    framesOf 0x20000030 s1 = [.bytes [0x83, 0x06, 0x04, 0x60, 0, 0, 0, 0xE1]] ∧ seen s1 = (some 135, 5, 0) := by decide

/-- Vector T5. -/
theorem test_generateToshibaGeneric :
    framesOf 0x22000030 (bound .toshibaGeneric) = [.bytes [0xF2, 0x0D, 0x72, 0x00, 0x8D]] ∧
    seen (gen 0x22000030 (bound .toshibaGeneric)) = (some 167, 5, 0) := by decide

/-- Vectors T6 and T7. -/
theorem test_generateToshibaRas2819t :
    framesOf 0x22000030 (bound .toshibaRas2819t) = [.bytes [0xC2, 0x20, 0x18, 0xFA], .bytes [0xD5, 0, 0, 0xD5]] ∧
    framesOf 0x22010030 (bound .toshibaRas2819t) = [.bytes [0xC2, 0x3D, 0x6B, 0x94]] ∧
    seen (gen 0x22000030 (bound .toshibaRas2819t)) = (some 271, 5, 0) ∧
    seen (gen 0x22010030 (bound .toshibaRas2819t)) = (some 135, 7, 0) := by decide

/-- Vector T10. -/
theorem test_generateToshibaRacPt1411hwru :
    framesOf 0x22100032 (bound .toshibaRacPt1411hwru) = [.bytes [0xB2, 0x01, 0x22, 0x91], .bytes [0xB5, 0, 0, 0xB5]] ∧
    seen (gen 0x22100032 (bound .toshibaRacPt1411hwru)) = (some 135, 5, 1) := by decide

/-- Vector T11. -/
theorem test_generateDaikin :
    framesOf 0x22430031 (bound .daikin) =
      [.bytes [0x11, 0xDA, 0x27, 0x12], .bytes [0x11, 0xDA, 0x42, 0x2D], .bytes [0x11, 0x21, 0x30, 0x43, 0xA5]] ∧
    seen (gen 0x22430031 (bound .daikin)) = (some 219, 7, 0) := by decide

/-- Vector T12. -/
theorem test_generateHitachi :
    framesOf 0x22110030 (bound .hitachi) = [.bytes [0x01, 0x10, 0x18, 0xE7, 0x21, 0xDE, 0x01]] ∧
    seen (gen 0x22110030 (bound .hitachi)) = (some 115, 7, 0) := by decide

/-! ### RESOLVE, RELEASE, QUERY and the reserved operations -/

/-- The response of the next step from `s` with the command word `cw` offered. -/
def answer (cw : Nat) (s : State) : Option Response :=
  match step (s.withFetchWord 32 cw) with
  | .next t => t.rsp
  | _ => none

/-- Vectors K3 (B15), B19, T4: the effective variant. -/
theorem test_resolve :
    (resolve Toy.t1 5 6 State.reset).rsp = some ⟨.ok, 0x605⟩ ∧ (resolve Toy.t1 5 9 State.reset).rsp = some ⟨.ok, 5⟩ ∧
    (resolve Toy.t1 3 5 State.reset).bindingWord = 3 := by decide

/-- Vectors E7, E8 and E17: the one exception, on an unbound and on a bound instance, by steps of the machine. -/
theorem test_unsupportedBrand :
    answer 0x120F0000 State.reset = some ⟨.unsupportedBrand, 0xF20⟩ ∧
    answer 0x1FF30000 (bound .coolix) = some ⟨.unsupportedBrand, 0x3FF⟩ ∧
    (resolve Toy.t1 0xFF 3 (bound .coolix)).statusWord = 3 := by decide

/-- Vectors E1, E2, E24 (unbound), E4 to E6, E10, E13, E25, by steps of the machine. -/
theorem test_unbound_answers :
    answer 0x22000030 State.reset = some ⟨.notBound, 0⟩ ∧ answer 0x30000000 State.reset = some ⟨.notBound, 0⟩ ∧
    answer 0x3A000000 State.reset = some ⟨.notBound, 0⟩ ∧ answer 0x38000000 State.reset = some ⟨.ok, 0⟩ ∧
    answer 0x39000000 State.reset = some ⟨.ok, 0⟩ ∧ answer 0x3F000000 State.reset = some ⟨.ok, 0⟩ ∧
    answer 0x50000000 State.reset = some ⟨.illegalOp, 0⟩ ∧ answer 0x37000000 State.reset = some ⟨.illegalOp, 0⟩ ∧
    answer 0x40000000 State.reset = some ⟨.ok, 0⟩ := by decide

/-- The capability words of LG in T1 (program P1) and the brand list (vector E3). -/
theorem test_capability_words :
    BitVec.ofInt 32 Toy.lg1.base.tempMin = 0x24 ∧ BitVec.ofInt 32 Toy.lg1.base.tempMax = 0x3C ∧
    stepWord Toy.lg1.base.tempStep = 2 ∧ modesMask Toy.lg1.base.supportedModes = 0x3F ∧
    fansMask Toy.lg1.base.supportedFans = 0x0F ∧ swingsMask Toy.lg1.base.supportedSwings = 1 ∧
    brandsMask Toy.t1.registered = 0x7FFF := by decide

/-- The debug readback after program P1's last GENERATE, by steps of the machine. -/
theorem test_readback :
    let s := gen 0x26410030 (bound .lg)
    answer 0x38000000 s = some ⟨.ok, 0x19⟩ ∧ answer 0x3A000000 s = some ⟨.ok, 5⟩ ∧ answer 0x3B000000 s = some ⟨.ok, 0x30⟩ ∧
    answer 0x3C000000 s = some ⟨.ok, 5⟩ ∧ answer 0x3D000000 s = some ⟨.ok, 0⟩ ∧ answer 0x3E000000 s = some ⟨.ok, 1⟩ := by
  decide

/-- RELEASE and the pin `rst` leave the reset state (vectors E22, E26). -/
theorem test_release_and_rst :
    step ((bound .coolix).withFetchWord 32 0x40000000) = .next { State.reset with rsp := some ⟨.ok, 0⟩ } ∧
    step { gen 0x22010030 (bound .coolix) with inputs := [⟨true, true, 0x38000000, true⟩], cur := 10 } =
      .next State.reset := ⟨rfl, rfl⟩

/-! ### Witnesses: every statement with hypotheses is about something -/

/-- An instance that is emitting, with two durations of three still to be taken. -/
def emitting (inputs : List PortInput) : State := { bound .lg with pq := [9000, 4500, 500], cur := 1, inputs := inputs }

/-- A consumer that is ready and a caller that is silent. -/
def ready : PortInput := ⟨false, false, 0, true⟩

theorem witness_DecodeOfEncodeIsTheInstruction :
    (Instr.generateGree ⟨0xF, 0xF, 0xF, 0xFFFF⟩).wellFormed (some (.gree 6)) = true ∧
    (Instr.resolve 0xFF 0xF).wellFormed none = true ∧ (Instr.generateUnbound someCmd).wellFormed none = true := by decide

theorem witness_DecodeIgnoresReservedFields :
    (opField 0x100FABCD = opField 0x100F0000 ∧ brandField 0x100FABCD = brandField 0x100F0000 ∧
      variantField 0x100FABCD = variantField 0x100F0000) ∧
    (opField 0x30FFFFFF = opField 0x30000000 ∧ selField 0x30FFFFFF = selField 0x30000000) ∧
    opField 0x4FFFFFFF = opField 0x40000000 := by decide

theorem witness_AssembledWords :
    (15 < 16 ∧ (assemble (.resolve (.name .nec) (some 15))).toNat = 0x10000000 + 14 * 2 ^ 20 + 15 * 2 ^ 16) ∧
    (0 < 16 ∧ (assemble (.query 0)).toNat = 0x30000000) ∧ (15 < 16 ∧ (assemble (.query 15)).toNat = 0x3F000000) := by decide

theorem witness_StepRunsTheDecodedCommand :
    let p : PortInput := .command 0x22300030
    let s := { bound .lg with inputs := [p, ready] }
    p.rst = false ∧ p.cmdValid = true ∧ s.cmdReady = true ∧ decode s.binding p.cmdWord = .generateLg ⟨2, 3, 0, 0x30⟩ := by
  decide

theorem witness_ResetPinLeavesTheResetState :
    (emitting [⟨true, true, 0x30000000, true⟩, ready]).inputs = [⟨true, true, 0x30000000, true⟩, ready] := rfl

/-- One duration of three taken, and the last one. -/
theorem witness_TakingADurationMovesTheCursor :
    (let s := emitting [ready]
     s.inputs = [ready] ∧ ready.rst = false ∧ ready.pulseReady = true ∧ s.cur < s.pq.length ∧ s.cur + 1 < s.pq.length) ∧
    (let s := { emitting [ready] with cur := 2 }
     s.inputs = [ready] ∧ s.cur < s.pq.length ∧ ¬ s.cur + 1 < s.pq.length) := by decide

/-- While emitting: a command offered, and the consumer not ready, at the first duration and at the last. While idle: the
consumer ready and no command, on an empty queue; and nothing driven. -/
theorem witness_NothingMovesWithoutAHandshake :
    (let s := emitting [.command 0x40000000]
     s.inputs = [.command 0x40000000] ∧ (PortInput.command 0x40000000).rst = false ∧
     (PortInput.command 0x40000000).pulseReady = false ∧ s.cur < s.pq.length) ∧
    (let s := { emitting [.command 0x40000000] with cur := 2 }
     s.cur < s.pq.length ∧ s.cur + 1 = s.pq.length) ∧
    (let s := { bound .lg with inputs := [ready] }
     s.inputs = [ready] ∧ ready.rst = false ∧ ready.cmdValid = false ∧ s.pq.length ≤ s.cur) ∧
    (bound .lg).inputs = [] := by decide

/-- An unbound instance with a failed RESOLVE on record and a RELEASE offered meets the invariant, and its step answers. -/
theorem witness_StepKeepsTheInvariant :
    let s := { State.reset with err := true, errInfo := brandVariantWord 0x20 0xF, inputs := [.command 0x40000000] }
    s.Inv ∧ step s = .next { State.reset with rsp := some ⟨.ok, 0⟩ } :=
  ⟨⟨⟨rfl, rfl, rfl⟩, .inl ⟨rfl, rfl⟩, ⟨Nat.zero_le _, Nat.zero_le _⟩, fun _ h => absurd h List.not_mem_nil, fun _ => ⟨rfl, rfl, rfl⟩,
    .inr ⟨rfl, 0x20, 0xF, rfl, rfl⟩, fun _ h => nomatch h⟩, rfl⟩

/-- One of two durations taken, and both. -/
theorem witness_WholeSequenceIsOfferedInOrder :
    (let s := emitting [ready, ready]
     s.inputs = [ready] ++ [ready] ∧ (∀ p ∈ [ready], p.rst = false ∧ p.pulseReady = true) ∧ s.cur + 1 ≤ s.pq.length) ∧
    (let s := emitting [ready, ready]
     s.inputs = [ready, ready] ++ [] ∧ s.cur + 2 = s.pq.length) := by decide

theorem witness_InstancesAreIndependent : 1 < [bound .lg, emitting [ready]].length := by decide

/-- With T1: a brand code that the Registry does not hold, and one that it holds. -/
theorem witness_ResolveBindsOrRaises :
    registry Toy.t1 0x0F = none ∧ registry Toy.t1 0x0E = some .nec ∧
    (resolve Toy.t1 0x0E 1 State.reset).binding = some .nec ∧ (resolve Toy.t1 0x0F 1 State.reset).binding = none := by decide

theorem witness_RegistryIsExact :
    (2 < Brand.toshiba.variants ∧ Target.of .toshiba 2 = .toshibaRacPt1411hwru) ∧
    (6 < Brand.gree.variants ∧ Target.of .gree 6 = .gree 6) ∧ (0 < Brand.nec.variants ∧ Target.of .nec 0 = .nec) ∧
    registry Toy.t1 0x0F = none ∧
    (Brand.toshiba.variants ≤ 3 ∧ Target.of .toshiba (effectiveVariant .toshiba 3) = Target.of .toshiba 0) ∧
    (Brand.nec.variants ≤ 1 ∧ Target.of .nec (effectiveVariant .nec 1) = .nec) := by decide

/-- A QUERY, and a GENERATE of the unbound row, on an instance with a failed RESOLVE on record. -/
theorem witness_OnlyResolveAndReleaseRebind :
    let s := { bound .coolix with err := true, errInfo := 0xF20 }
    exec .queryErrInfo s = .next { s with rsp := some ⟨.ok, 0xF20⟩ } ∧ s.err = true ∧ Instr.queryErrInfo ≠ .release ∧
      ∀ b v, Instr.queryErrInfo ≠ .resolve b v := ⟨rfl, rfl, by decide, fun _ _ h => nomatch h⟩

theorem witness_ErrorRecordIsSticky :
    let s := { bound .coolix with err := true, errInfo := 0xF20 }
    exec (.reservedOp5) s = .next { s with rsp := some ⟨.illegalOp, 0⟩ } ∧ s.errInfo = 0xF20 := ⟨rfl, rfl⟩

/-- LG in T1: supported settings, unsupported ones (codes 6, 4, 3) and codes that name nothing (7, 5, 4). -/
theorem witness_SettingsAreNormalised :
    let d := Toy.lg1.base
    (d.supportedModes .auto = true ∧ normMode d 5 = .auto) ∧
    ((∀ x : Mode, x.code = 6 → d.supportedModes x = false) ∧ normMode d 6 = d.defaultMode) ∧
    ((∀ x : Mode, x.code = 7 → d.supportedModes x = false) ∧ normMode d 7 = d.defaultMode) ∧
    (d.supportedFans .high = true ∧ normFan d 3 = .high) ∧
    ((∀ x : FanSpeed, x.code = 4 → d.supportedFans x = false) ∧ normFan d 4 = d.defaultFan) ∧
    ((∀ x : FanSpeed, x.code = 5 → d.supportedFans x = false) ∧ normFan d 5 = d.defaultFan) ∧
    (d.supportedSwings .off = true ∧ normSwing d 0 = .off) ∧
    ((∀ x : SwingSetting, x.code = 3 → d.supportedSwings x = false) ∧ normSwing d 3 = .off) ∧
    ((∀ x : SwingSetting, x.code = 4 → d.supportedSwings x = false) ∧ normSwing d 4 = .off) := by
  refine ⟨by decide, ⟨fun x => ?_, by decide⟩, ⟨fun x => ?_, by decide⟩, by decide, ⟨fun x => ?_, by decide⟩,
    ⟨fun x => ?_, by decide⟩, by decide, ⟨fun x => ?_, by decide⟩, ⟨fun x => ?_, by decide⟩⟩ <;> cases x <;> decide

/-- The bounds themselves, one beyond each, and an odd value between them. -/
theorem witness_TemperatureIsClampedThenQuantised :
    let d := Toy.yashima1.base
    d.WellFormed ∧ normTemp d 39 = 40 ∧ normTemp d 40 = 40 ∧ normTemp d 43 = 42 ∧ normTemp d 46 = 46 ∧ normTemp d 47 = 46 :=
  ⟨Toy.yashima1_rules.desc.base, by decide, by decide, by decide, by decide, by decide⟩

/-- A normalised command of Ballu, Midea and LG in T1. -/
def coolCmd : NormCmd := ⟨.cool, 48, .auto, .off⟩

/-- Inside the bounds of LG in T1, and at each of them. -/
theorem witness_NormalisedCommandsAreTheFixedPoints :
    Toy.t1.WellFormed ∧ Toy.lg1.base.tempMax < 32768 ∧ coolCmd.ValidFor Toy.lg1.base ∧
      NormCmd.ValidFor ⟨.cool, Toy.lg1.base.tempMin, .auto, .off⟩ Toy.lg1.base ∧
      NormCmd.ValidFor ⟨.cool, Toy.lg1.base.tempMax, .auto, .off⟩ Toy.lg1.base := by
  refine ⟨Toy.t1_wellFormed, by decide, ⟨?_, ?_, ?_, ?_, ?_, ?_⟩, ⟨?_, ?_, ?_, ?_, ?_, ?_⟩, ⟨?_, ?_, ?_, ?_, ?_, ?_⟩⟩ <;> decide

/-- R152 on LG in T1 (18 to 30 degrees, fans without Quiet, swing Off alone): at a bound and half a degree beyond it, an unknown
mode, an unsupported fan, an unsupported swing. -/
theorem test_diagnose :
    let d := Toy.lg1.base
    diagnose d ⟨2, 3, 0, 36⟩ = ⟨false, false, false⟩ ∧ diagnose d ⟨2, 3, 0, 35⟩ = ⟨true, false, false⟩ ∧
    diagnose d ⟨2, 3, 0, 60⟩ = ⟨false, false, false⟩ ∧ diagnose d ⟨2, 3, 0, 61⟩ = ⟨true, false, false⟩ ∧
    diagnose d ⟨7, 3, 0, 48⟩ = ⟨false, true, false⟩ ∧ diagnose d ⟨2, 4, 0, 48⟩ = ⟨false, true, false⟩ ∧
    diagnose d ⟨2, 3, 1, 48⟩ = ⟨false, false, true⟩ := by decide

/-- Below the minimum on LG; at and above the maximum on TCL. -/
theorem witness_OutOfRangeTemperatureEncodesAsTheBound :
    ((bound .lg).facade = some ⟨.lg, .fresh⟩ ∧ (0x8000#16).toInt ≤ (theConfig.desc .lg).tempMin ∧
      (0xFFFF#16).toInt ≤ (theConfig.desc .lg).tempMin) ∧
    ((bound .tcl).facade = some ⟨.tcl, .fresh⟩ ∧ (theConfig.desc .tcl).tempMax ≤ (62#16).toInt ∧
      (theConfig.desc .tcl).tempMax ≤ (100#16).toInt) := by
  have h1 : 30 ≤ (theConfig.desc .lg).tempMin := theConfig_wellFormed.lg.low
  have h2 : (theConfig.desc .tcl).tempMax = 62 := theConfig_wellFormed.tcl.high
  have e1 : (0x8000#16).toInt = -32768 := by decide
  have e2 : (0xFFFF#16).toInt = -1 := by decide
  have e3 : (62#16).toInt = 62 := by decide
  have e4 : (100#16).toInt = 100 := by decide
  refine ⟨⟨rfl, ?_, ?_⟩, rfl, ?_, ?_⟩ <;> omega

/-- The hypothesis of every statement about a bound instance, for each target. -/
theorem witness_bound :
    ([.lg, .daikin, .mitsubishi, .toshibaGeneric, .toshibaRas2819t, .toshibaRacPt1411hwru, .midea, .gree 0, .gree 6, .fujitsu,
      .tcl, .ballu, .coolix, .hitachi, .whirlpool, .whynter, .yashima, .nec] : List Target).all
      (fun t => (bound t).facade == some ⟨t, .fresh⟩ && (bound t).binding == some t) = true := by decide

/-- R203: 2 * 1032 + 6 + 6 durations a copy, and PS_MAX = 4152 for two copies, the most that T1 has. -/
theorem test_psMax : durationsPerCopy = 2 * 1032 + 6 + 6 ∧ copiesMax Toy.t1 = 2 ∧ psMax Toy.t1 = 4152 := by decide

/-- The configuration's hypotheses of PS_MAX: T1, with a brand that is sent twice. -/
theorem witness_BoundGenerateEmits :
    Toy.t1.WellFormed ∧ Toy.t1.registered .mitsubishi = true ∧ (bound .mitsubishi).facade = some ⟨.mitsubishi, .fresh⟩ :=
  ⟨Toy.t1_wellFormed, rfl, rfl⟩

/-- The hypothesis of the statements about an unbound instance. -/
theorem witness_unbound : State.reset.facade = none ∧ State.reset.binding = none := ⟨rfl, rfl⟩

theorem witness_EmittedFramesAreClosed :
    (coolCmd.ValidFor Toy.ballu1.base ∧ Toy.ballu1.base.checksumKind = .sum8 ∧
      Frame.bytes (balluFrame Toy.t1 coolCmd (freshView 0)) ∈ (builderOf Toy.t1 .ballu coolCmd (freshView 0)).frames) ∧
    (coolCmd.ValidFor Toy.midea1.base ∧ Toy.midea1.base.checksumKind = .xor8 ∧
      Frame.bytes (mideaFrame Toy.t1 coolCmd (freshView 0)) ∈ (builderOf Toy.t1 .midea coolCmd (freshView 0)).frames) ∧
    (coolCmd.ValidFor Toy.lg1.base ∧
      Frame.word 28 0x880095E ∈ (builderOf Toy.t1 .lg coolCmd (freshView 0)).frames) := by
  refine ⟨⟨⟨?_, ?_, ?_, ?_, ?_, ?_⟩, ?_, ?_⟩, ⟨⟨?_, ?_, ?_, ?_, ?_, ?_⟩, ?_, ?_⟩, ⟨?_, ?_, ?_, ?_, ?_, ?_⟩, ?_⟩ <;> decide

/-- A word frame, and the second of two byte frames. -/
theorem witness_FramesAreSentWholeAndInOrder :
    (⟨.cool, 36, .low, .vertical⟩ : NormCmd).ValidFor Toy.racPt1.base ∧
    (freshView 2).modelVariant = Target.toshibaRacPt1411hwru.variant ∧
    (builderOf Toy.t1 .toshibaRacPt1411hwru ⟨.cool, 36, .low, .vertical⟩ (freshView 2)).frames[1]? =
      some (.bytes [0xB5, 0x01, 0x00, 0xB4]) ∧
    (freshView 0).modelVariant = Target.lg.variant := by
  refine ⟨⟨?_, ?_, ?_, ?_, ?_, ?_⟩, ?_, ?_, ?_⟩ <;> decide

/-- Two instances that differ in SEQ and in their error record. -/
theorem witness_GenerateIsDeterministic :
    opField 0x22300030 = 2 ∧ (bound .lg).facade = some ⟨.lg, .fresh⟩ ∧
    ({ bound .lg with seq := 7, err := true } : State).facade = some ⟨.lg, .fresh⟩ := ⟨by decide, rfl, rfl⟩

/-- Two views that Coolix of T1, which uses the assumed swing alone, cannot tell apart. -/
theorem witness_UnusedStateNeverShows :
    coolCmd.ValidFor Toy.coolix1.base ∧
    agreeOn Toy.coolix1.base.uses (freshView 0) { freshView 0 with assumedPowerOn := true, modeTransitionBits := 5 } := by
  refine ⟨⟨?_, ?_, ?_, ?_, ?_, ?_⟩, ?_⟩
  case refine_7 => exact ⟨fun h => absurd h (by decide), fun _ => rfl, fun h => absurd h (by decide), fun h => absurd h (by decide),
    fun h => absurd h (by decide), fun _ => rfl⟩
  all_goals decide

theorem witness_CoolixSwingSequence :
    (bound .coolix).facade = some ⟨.coolix, ProtocolState.fresh⟩ ∧ (climateField 0x22010030).swing = 1 ∧
    (climateField 0x22000030).swing = 0 := ⟨rfl, by decide, by decide⟩

theorem witness_WhirlpoolPowerSequence :
    (bound .whirlpool).facade = some ⟨.whirlpool, ProtocolState.fresh⟩ ∧ (climateField 0x20000030).mode = 0 ∧
    clearOfChecksum Toy.whirlpool1.base (Toy.whirlpool1.base.frameLen 0) Toy.whirlpool1.power :=
  ⟨rfl, by decide, by unfold clearOfChecksum; decide⟩

theorem witness_LgScenarioOne :
    Toy.t1.WellFormed ∧ Toy.t1.lg.base.supportedModes .cool = true ∧ Toy.t1.lg.base.supportedFans .high = true ∧
    Toy.t1.lg.base.tempMin ≤ 48 ∧ 48 ≤ Toy.t1.lg.base.tempMax ∧ (bound .lg).facade = some ⟨.lg, ProtocolState.fresh⟩ :=
  ⟨Toy.t1_wellFormed, by decide, by decide, by decide, by decide, rfl⟩

theorem witness_UnboundCommandsAnswerNotBound :
    State.reset.facade = none ∧
    ∀ i ∈ [Instr.generateUnbound someCmd, .querySeq],
      i ∈ [.generateUnbound someCmd, .queryTemperatureMin, .queryTemperatureMax, .queryTemperatureStep,
        .querySupportedHvacModes, .querySupportedFanModes, .querySupportedSwingModes, .queryPsFlags, .queryPrevTemp,
        .queryPrevMode, .queryModeTrans, .querySeq] := ⟨rfl, by decide⟩

theorem witness_ReservedEncodingsChangeNothing :
    exec .reservedOpF (bound .lg) = .next { bound .lg with rsp := some ⟨.illegalOp, 0⟩ } ∧
    exec .queryReservedSelector State.reset = .next { State.reset with rsp := some ⟨.illegalOp, 0⟩ } := ⟨rfl, rfl⟩

/-- One segment with a header, a one, a zero and a gap, place by place. -/
theorem witness_SerialisedSegments :
    (⟨h1, [true, false], .markGap 500 8000⟩ : Segment).hdr = some (9000, 4500) ∧ 1 < [true, false].length ∧
    serSeg Toy.tp1 ⟨h1, [true, false], .markGap 500 8000⟩ = [9000, 4500, 500, 1500, 500, 500, 500, 8000] ∧
    serSeg Toy.tp1 ⟨none, [], .mark 500⟩ = [500] := by decide

/-- A plan that ends on a lone mark, and one that ends on a gap. -/
theorem witness_SerialisedPlans :
    (planWellFormed [⟨h1, [true], .mark 500⟩] ∧ (ser Toy.tp1 [⟨h1, [true], .mark 500⟩]).length = 5) ∧
    (planWellFormed [⟨h1, [], .markGap 500 8000⟩, ⟨none, [true], .none⟩] ∧
      (ser Toy.tp1 [⟨h1, [], .markGap 500 8000⟩, ⟨none, [true], .none⟩]).length = 6) := by
  simp [planWellFormed, segmentEmits, isMarkTail, h1, ser, planPulses, segPulses, headerPulses, bitPulses, tailPulses]

/-- R65 to R67 on bits at the ends of their ranges: 0x01 as a byte, as the second of two bytes, and as a word of 28 bits. -/
theorem witness_BitsLeaveInTheirOrder :
    (bitsOfByte .lsbFirst 0x01)[0]? = some true ∧ (bitsOfByte .msbFirst 0x01)[7]? = some true ∧
    1 < [(0x00 : Byte), 0x01].length ∧ (bitsOfBytes .lsbFirst [0x00, 0x01])[8]? = some true ∧
    (bitsOfBytes .msbFirst [0x00, 0x01])[15]? = some true ∧ 27 < 28 ∧
    (bitsOfWord .lsbFirst 28 0x01)[0]? = some true ∧ (bitsOfWord .msbFirst 28 0x01)[27]? = some true := by decide

/-- A bit and a byte at the ends of their ranges. -/
theorem witness_ByteArithmetic :
    (rev8 0x01).getLsbD 7 = true ∧ (rev8 0x80).getLsbD 0 = true ∧ (invertPairs [1, 2, 3, 4] 3).getD 3 0 = 0xFC ∧
    (invertPairs [1, 2, 3, 4] 3).getD 1 0 = 2 ∧ 3 < [1, 2, 3, 4].length := by decide

/-- Whirlpool of T1: splits after bytes 2 and 5 of 8. -/
theorem witness_SplitAndRepeatedPlans :
    splitsOk Toy.whirlpool1.base.plan.splits 8 ∧ (planSplit Toy.whirlpool1.base [1, 2, 3, 4, 5, 6, 7, 8]).length = 3 := by
  refine ⟨⟨?_, ?_⟩, ?_⟩ <;> decide

end Sys2Proof.Tests
end

/-! Normalised commands are the fixed points of normalisation, and what each bit of DIAG says (spec/40_facade_ops.md R148 to
R152). -/

namespace Sys2Proof.Machine

section
variable (d : Descriptor)

/-! ### Operands that no supported setting has -/

/-- No mode is accepted when every mode of that code is unsupported (R148). -/
theorem acceptedMode_eq_none (m : BitVec 4) :
    acceptedMode d m = none ↔ ∀ x : Mode, x.code = m → d.supportedModes x = false := by
  simp [Option.eq_none_iff_forall_ne_some, acceptedMode_eq_some]

/-- No fan speed is accepted when every fan speed of that code is unsupported (R149). -/
theorem acceptedFan_eq_none (f : BitVec 4) :
    acceptedFan d f = none ↔ ∀ x : FanSpeed, x.code = f → d.supportedFans x = false := by
  simp [Option.eq_none_iff_forall_ne_some, acceptedFan_eq_some]

/-! ### Operands that normalisation keeps -/

/-- The code of a supported mode is accepted as that mode (R148). -/
theorem acceptedMode_code {x : Mode} (h : d.supportedModes x = true) : acceptedMode d x.code = some x :=
  (acceptedMode_eq_some d _ x).2 ⟨rfl, h⟩

/-- The code of a supported fan speed is accepted as that fan speed (R149). -/
theorem acceptedFan_code {x : FanSpeed} (h : d.supportedFans x = true) : acceptedFan d x.code = some x :=
  (acceptedFan_eq_some d _ x).2 ⟨rfl, h⟩

/-- Normalisation keeps a supported mode (R148). -/
theorem normMode_code {x : Mode} (h : d.supportedModes x = true) : normMode d x.code = x := by
  rw [normMode, acceptedMode_code d h, Option.getD_some]

/-- Normalisation keeps a supported fan speed (R149). -/
theorem normFan_code {x : FanSpeed} (h : d.supportedFans x = true) : normFan d x.code = x := by
  rw [normFan, acceptedFan_code d h, Option.getD_some]

/-- Normalisation keeps a supported swing setting (R150). -/
theorem normSwing_code {x : SwingSetting} (h : d.supportedSwings x = true) : normSwing d x.code = x := by
  rw [normSwing, (acceptedSwing_eq_some d _ x).2 ⟨rfl, h⟩, Option.getD_some]

/-- Clamping keeps a temperature inside the bounds (R151). -/
theorem clampTemp_of_mem {t : Int} (low : d.tempMin ≤ t) (high : t ≤ d.tempMax) : clampTemp d t = t := by
  rw [clampTemp, max_eq_left low, min_eq_left high]

/-- Quantising keeps whole degrees, and every temperature of a half-degree brand (R151). -/
theorem quantise_of_even {t : Int} (even : d.tempStep = .whole → t % 2 = 0) : quantise d t = t := by
  unfold quantise
  cases hstep : d.tempStep with
  | half => rfl
  | whole => exact Int.mul_ediv_cancel' (Int.dvd_of_emod_eq_zero (even hstep))

/-- Normalisation keeps the temperature of a normalised command (R151). -/
theorem normTemp_of_validFor {n : NormCmd} (hn : n.ValidFor d) : normTemp d n.temp = n.temp := by
  rw [normTemp, clampTemp_of_mem d hn.low hn.high, quantise_of_even d hn.even]

/-! ### The operands of a normalised command -/

/-- The operands that ask for a normalised command: the codes of its settings and its temperature in 16 bits (R92). -/
def operandsOf (n : NormCmd) : ClimateCommand :=
  ⟨n.mode.code, n.fan.code, n.swing.code, BitVec.ofInt 16 n.temp⟩

/-- The operand sign-extends to the temperature again when the bounds fit 16 signed bits (R101). -/
theorem halfDegrees_operandsOf (hd : d.WellFormed) {n : NormCmd} (hn : n.ValidFor d) (fits : d.tempMax < 32768) :
    halfDegrees (operandsOf n) = n.temp := by
  obtain ⟨positive, -, -⟩ := hd.bounds
  have low := hn.low
  have high := hn.high
  exact BitVec.toInt_ofInt_eq_self (by decide) (by omega) (by omega)

/-- A normalised command is a fixed point of normalisation (R147). -/
theorem normalise_operandsOf (hd : d.WellFormed) {n : NormCmd} (hn : n.ValidFor d) (fits : d.tempMax < 32768) :
    normalise d (operandsOf n) = n := by
  rw [normalise, halfDegrees_operandsOf d hd hn fits, normTemp_of_validFor d hn]
  simp only [operandsOf, normMode_code d hn.mode, normFan_code d hn.fan, normSwing_code d hn.swing]

/-! ### The bits of DIAG (R152) -/

/-- CLAMPED: the operand lies outside the bounds. -/
theorem diagnose_clamped (cmd : ClimateCommand) :
    (diagnose d cmd).clamped = true ↔ halfDegrees cmd < d.tempMin ∨ d.tempMax < halfDegrees cmd :=
  decide_eq_true_iff

/-- DEFAULTED: the mode or the fan speed asked for is not accepted. -/
theorem diagnose_defaulted (cmd : ClimateCommand) :
    (diagnose d cmd).defaulted = true ↔ acceptedMode d cmd.mode = none ∨ acceptedFan d cmd.fan = none :=
  decide_eq_true_iff

/-- IGNORED: a swing was asked for and becomes Off. -/
theorem diagnose_ignored (cmd : ClimateCommand) :
    (diagnose d cmd).ignored = true ↔ cmd.swing ≠ 0 ∧ (normalise d cmd).swing = .off :=
  decide_eq_true_iff

/-- DIAG is 0 when none of its three conditions holds. -/
theorem diagnose_eq_zero (cmd : ClimateCommand) (inside : d.tempMin ≤ halfDegrees cmd ∧ halfDegrees cmd ≤ d.tempMax)
    (mode : acceptedMode d cmd.mode ≠ none) (fan : acceptedFan d cmd.fan ≠ none)
    (swing : (normalise d cmd).swing = .off → cmd.swing = 0) : diagnose d cmd = .zero := by
  have clamped : (diagnose d cmd).clamped = false := by
    rw [Bool.eq_false_iff, ne_eq, diagnose_clamped]
    omega
  have defaulted : (diagnose d cmd).defaulted = false := by
    rw [Bool.eq_false_iff, ne_eq, diagnose_defaulted]
    exact not_or.2 ⟨mode, fan⟩
  have ignored : (diagnose d cmd).ignored = false := by
    rw [Bool.eq_false_iff, ne_eq, diagnose_ignored]
    exact fun ⟨asked, off⟩ => asked (swing off)
  calc diagnose d cmd
      _ = ⟨(diagnose d cmd).clamped, (diagnose d cmd).defaulted, (diagnose d cmd).ignored⟩ := rfl
      _ = .zero := by rw [clamped, defaulted, ignored, Diag.zero]

/-- A normalised command leaves DIAG 0: its swing becomes Off only when Off, code 0, was asked for. -/
theorem diagnose_operandsOf (hd : d.WellFormed) {n : NormCmd} (hn : n.ValidFor d) (fits : d.tempMax < 32768) :
    diagnose d (operandsOf n) = .zero := by
  refine diagnose_eq_zero d _ ?_ ?_ ?_ ?_
  · rw [halfDegrees_operandsOf d hd hn fits]
    exact ⟨hn.low, hn.high⟩
  · exact Option.ne_none_iff_exists'.2 ⟨_, acceptedMode_code d hn.mode⟩
  · exact Option.ne_none_iff_exists'.2 ⟨_, acceptedFan_code d hn.fan⟩
  · rw [normalise_operandsOf d hd hn fits]
    exact fun off => congrArg SwingSetting.code off

end

/-- Settles O22: validity is that of `normalise`, the fixed points keep each setting and the temperature, and each bit of DIAG
is read off its own condition. -/
theorem normalisedCommandsAreTheFixedPoints : Obligations.NormalisedCommandsAreTheFixedPoints := by
  intro c tgt hc
  have hd := desc_wellFormed c hc tgt
  refine ⟨normalise_validFor _ hd, fun n hn fits => ⟨normalise_operandsOf _ hd hn fits, diagnose_operandsOf _ hd hn fits⟩,
    fun cmd => ⟨diagnose_clamped _ cmd, ?_, diagnose_ignored _ cmd⟩⟩
  rw [diagnose_defaulted, acceptedMode_eq_none, acceptedFan_eq_none]

end Sys2Proof.Machine

/-! The state of an encoder (spec/10_state.md): what each instruction can do to it, the invariant that every step keeps, the
emission cursor, the registers that few operations write, and the readback of PS and SEQ. -/

namespace Sys2Proof.Machine

/-! ### What an instruction can do -/

/-- The four things an instruction can do to a state: bind or raise (R140), run the builder of a binding (R147), release
(R145), or answer and write no register (R39, R146, R413). -/
inductive Effect (s : State) : Instr → State → Prop where
  | resolve (brand : BitVec 8) (variant : BitVec 4) : Effect s (.resolve brand variant) (resolve theConfig brand variant s)
  | generate (tgt : Target) (cmd : ClimateCommand) :
      Effect s (tgt.generate cmd) (generate theConfig (builderOf theConfig tgt) cmd s)
  | release : Effect s .release (s.destroy.answer .ok 0)
  | answer (i : Instr) (st : Status) (data : Word) : Effect s i (s.answer st data)

/-- A QUERY that needs a binding only answers, bound or not (R39, R146). -/
theorem effect_queryBound (i : Instr) (q : BitVec 4) (value : Facade → Word) (s : State) :
    Effect s i (queryBound q value s) := by
  cases h : s.facade with
  | none => exact queryBound_none q value s h ▸ .answer i .notBound 0
  | some fa => exact queryBound_some q value s fa h ▸ .answer i .ok (value fa)

/-- The meaning of every instruction is one of the four effects. -/
theorem exec_effect {i : Instr} {s t : State} (h : exec i s = .next t) : Effect s i t := by
  suffices ∃ u, exec i s = .next u ∧ Effect s i u by
    obtain ⟨u, hu, effect⟩ := this
    obtain rfl : u = t := Host.Outcome.next.inj (hu.symm.trans h)
    exact effect
  cases i with
  | resolve brand variant => exact ⟨_, rfl, .resolve brand variant⟩
  | generateLg cmd => exact ⟨_, rfl, .generate .lg cmd⟩
  | generateWhynter cmd => exact ⟨_, rfl, .generate .whynter cmd⟩
  | generateYashima cmd => exact ⟨_, rfl, .generate .yashima cmd⟩
  | generateBallu cmd => exact ⟨_, rfl, .generate .ballu cmd⟩
  | generateTcl cmd => exact ⟨_, rfl, .generate .tcl cmd⟩
  | generateMitsubishi cmd => exact ⟨_, rfl, .generate .mitsubishi cmd⟩
  | generateMidea cmd => exact ⟨_, rfl, .generate .midea cmd⟩
  | generateGree cmd => exact ⟨_, rfl, .generate (.gree 0) cmd⟩
  | generateFujitsu cmd => exact ⟨_, rfl, .generate .fujitsu cmd⟩
  | generateNec cmd => exact ⟨_, rfl, .generate .nec cmd⟩
  | generateCoolix cmd => exact ⟨_, rfl, .generate .coolix cmd⟩
  | generateWhirlpool cmd => exact ⟨_, rfl, .generate .whirlpool cmd⟩
  | generateToshibaGeneric cmd => exact ⟨_, rfl, .generate .toshibaGeneric cmd⟩
  | generateToshibaRas2819t cmd => exact ⟨_, rfl, .generate .toshibaRas2819t cmd⟩
  | generateToshibaRacPt1411hwru cmd => exact ⟨_, rfl, .generate .toshibaRacPt1411hwru cmd⟩
  | generateDaikin cmd => exact ⟨_, rfl, .generate .daikin cmd⟩
  | generateHitachi cmd => exact ⟨_, rfl, .generate .hitachi cmd⟩
  | release => exact ⟨_, rfl, .release⟩
  | queryTemperatureMin | queryTemperatureMax | queryTemperatureStep | querySupportedHvacModes | querySupportedFanModes
  | querySupportedSwingModes | queryPsFlags | queryPrevTemp | queryPrevMode | queryModeTrans | querySeq =>
    exact ⟨_, rfl, effect_queryBound ..⟩
  | queryBrandList | queryStatus | queryBinding | queryErrInfo | queryReservedSelector | generateUnbound cmd
  | reservedOp0 | reservedOp5 | reservedOp6 | reservedOp7 | reservedOp8 | reservedOp9 | reservedOpA | reservedOpB
  | reservedOpC | reservedOpD | reservedOpE | reservedOpF =>
    exact ⟨_, rfl, .answer ..⟩

/-- A GENERATE row that stands under a binding is the row that the binding chooses (R107). -/
theorem generate_of_wellFormed {tgt : Target} {cmd : ClimateCommand} {b : Option Target}
    (h : (tgt.generate cmd).wellFormed b = true) : ∃ u, b = some u ∧ tgt.generate cmd = u.generate cmd := by
  cases tgt with
  | gree model =>
    match b, h with
    | some (.gree u), _ => exact ⟨.gree u, rfl, rfl⟩
  | _ => exact ⟨_, of_decide_eq_true h, rfl⟩

/-! ### The invariant: its base and the operations on the state -/

/-- The reset state meets the invariant, whatever the ports carry (R36). -/
theorem reset_inv (rsp : Option Response) (inputs : List PortInput) :
    { State.reset with rsp := rsp, inputs := inputs }.Inv where
  quiet     := ⟨rfl, rfl, rfl⟩
  cursor    := .inl ⟨rfl, rfl⟩
  bounded   := ⟨Nat.zero_le _, Nat.zero_le _⟩
  durations := fun _ queued => absurd queued List.not_mem_nil
  unbound   := fun _ => ⟨rfl, rfl, rfl⟩
  error     := .inl ⟨rfl, rfl⟩
  binding   := fun _ bound => nomatch bound

section
variable {s : State}

/-- The invariant reads no port: the next sample keeps it. -/
theorem State.Inv.sampled (h : s.Inv) (rest : List PortInput) : (s.sampled rest).Inv :=
  ⟨h.quiet, h.cursor, h.bounded, h.durations, h.unbound, h.error, h.binding⟩

/-- An answer keeps the invariant, and empties the transient registers itself. -/
theorem State.Inv.answer (h : s.Inv) (st : Status) (data : Word) : (s.answer st data).Inv :=
  ⟨⟨rfl, rfl, rfl⟩, h.cursor, h.bounded, h.durations, h.unbound, h.error, h.binding⟩

/-- Taking a duration keeps the cursor inside the queue or leaves the queue empty (R27). -/
theorem State.Inv.take (h : s.Inv) : s.take.Inv := by
  by_cases more : s.cur + 1 < s.pq.length
  · rw [State.take_of_lt s more]
    obtain ⟨length_le, -⟩ := h.bounded
    exact ⟨h.quiet, .inr more, ⟨length_le, more.le.trans length_le⟩, h.durations, h.unbound, h.error, h.binding⟩
  · rw [State.take_of_not_lt s more]
    exact ⟨h.quiet, .inl ⟨rfl, rfl⟩, ⟨Nat.zero_le _, Nat.zero_le _⟩, fun _ queued => absurd queued List.not_mem_nil,
      fun unbound => ⟨rfl, (h.unbound unbound).2⟩, h.error, h.binding⟩

/-! ### The invariant: RESOLVE and RELEASE -/

/-- RELEASE leaves the reset state with its own answer (R145). -/
theorem destroy_answer_inv (s : State) : (s.destroy.answer .ok 0).Inv :=
  reset_inv (some ⟨.ok, 0⟩) s.inputs

/-- A failed RESOLVE records a brand that the Registry does not hold (R26, R414). -/
theorem State.Inv.raise (h : s.Inv) {brand : BitVec 8} (unknown : registry theConfig brand = none) (variant : BitVec 4) :
    (s.raiseUnsupportedBrand brand variant).Inv :=
  ⟨⟨rfl, rfl, rfl⟩, h.cursor, h.bounded, h.durations, h.unbound, .inr ⟨rfl, brand, variant, unknown, rfl⟩, h.binding⟩

/-- A façade just constructed for a registered brand is in order (R35, R140). -/
theorem construct_answer_inv (s : State) {tgt : Target} (registered : theConfig.registered tgt.brand = true)
    (st : Status) (data : Word) : ((s.construct tgt).answer st data).Inv where
  quiet     := ⟨rfl, rfl, rfl⟩
  cursor    := .inl ⟨rfl, rfl⟩
  bounded   := ⟨Nat.zero_le _, Nat.zero_le _⟩
  durations := fun _ queued => absurd queued List.not_mem_nil
  unbound   := fun unbound => nomatch unbound
  error     := .inl ⟨rfl, rfl⟩
  binding   := by
    rintro _ ⟨⟩
    exact ⟨registered, .inl rfl⟩

/-- RESOLVE keeps the invariant whether the Registry holds the brand or not (R140). -/
theorem State.Inv.resolve (h : s.Inv) (brand : BitVec 8) (variant : BitVec 4) :
    (resolve theConfig brand variant s).Inv := by
  unfold Machine.resolve
  cases found : registry theConfig brand with
  | none => exact State.Inv.raise (s := s) h found variant
  | some b =>
    have registered := ((registry_eq_some theConfig brand b).1 found).2
    exact construct_answer_inv _ (by rwa [brand_targetOf]) _ _

/-! ### The invariant: GENERATE -/

/-- PS after a GENERATE records its normalised command: the temperature fits its 16 bits (R23, R153; log 3). -/
theorem update_ok {d : Descriptor} (hd : d.WellFormed) {n : NormCmd} (hn : n.ValidFor d) (v : PsView) :
    (ProtocolState.update d n v).ok d := by
  obtain ⟨positive, -, fits⟩ := hd.bounds
  have low := hn.low
  have high := hn.high
  have even := hn.even
  have stored : ((BitVec.ofInt 16 n.temp).toNat : Int) = n.temp := by
    rw [BitVec.toNat_ofInt]
    omega
  exact .inr ⟨⟨BitVec.ofInt 16 n.temp, n.mode⟩, rfl,
    ⟨hn.mode, by rwa [stored], by rwa [stored], fun whole => by have := even whole; dsimp only; omega⟩, rfl⟩

/-- What the builder of a registered binding emits is a non-empty sequence of positive durations within PS_MAX (R203). -/
theorem emitted_ok {fa : Facade} (registered : theConfig.registered fa.target.brand = true) {n : NormCmd}
    (hn : n.ValidFor (theConfig.desc fa.target)) :
    let pq := ser (theConfig.desc fa.target).timing (builderOf theConfig fa.target n fa.view).plan
    pq ≠ [] ∧ (∀ d ∈ pq, d ≠ 0) ∧ pq.length ≤ psMax theConfig := by
  have plan := builderOf_planOk theConfig theConfig_wellFormed fa.target n fa.view hn rfl
  obtain ⟨nonempty, positive, length_le, -⟩ :=
    plan.ser _ (desc_wellFormed theConfig theConfig_wellFormed fa.target).timing
  have copies_le := (copiesMax_spec theConfig).1 fa.target registered
  exact ⟨nonempty, positive, length_le.trans (Nat.mul_le_mul_right durationsPerCopy copies_le)⟩

/-- GENERATE with the builder of the binding keeps the invariant (R147). -/
theorem State.Inv.generate (h : s.Inv) {tgt : Target} (bound : s.binding = some tgt) (cmd : ClimateCommand) :
    (generate theConfig (builderOf theConfig tgt) cmd s).Inv := by
  obtain ⟨fa, facade, rfl⟩ := Option.map_eq_some_iff.1 bound
  obtain ⟨registered, -⟩ := h.binding fa facade
  have hd := desc_wellFormed theConfig theConfig_wellFormed fa.target
  have hn := normalise_validFor _ hd cmd
  obtain ⟨nonempty, positive, length_le⟩ := emitted_ok registered hn
  rw [generate_bound _ _ _ _ _ facade]
  exact {
    quiet     := ⟨rfl, rfl, rfl⟩
    cursor    := .inr (List.length_pos_iff.2 nonempty)
    bounded   := ⟨length_le, Nat.zero_le _⟩
    durations := positive
    unbound   := fun unbound => nomatch unbound
    error     := h.error
    binding   := by
      rintro _ ⟨⟩
      exact ⟨registered, update_ok hd hn fa.view⟩ }

/-! ### The invariant: every step -/

/-- An instruction that stands under the binding keeps the invariant. -/
theorem State.Inv.exec (h : s.Inv) {i : Instr} (stands : i.wellFormed s.binding = true) {t : State}
    (ran : exec i s = .next t) : t.Inv := by
  cases exec_effect ran with
  | resolve brand variant => exact h.resolve brand variant
  | release => exact destroy_answer_inv s
  | answer _ st data => exact h.answer st data
  | generate tgt cmd =>
    obtain ⟨u, bound, row⟩ := generate_of_wellFormed stands
    rw [row, exec_generate] at ran
    exact Host.Outcome.next.inj ran ▸ h.generate bound cmd

end

/-- Settles O11. -/
theorem resetMeetsTheInvariant : Obligations.ResetMeetsTheInvariant := reset_inv none []

/-- Settles O12, by what a step can do: idle, reset, execute the command offered, let a duration be taken, or wait. -/
theorem stepKeepsTheInvariant : Obligations.StepKeepsTheInvariant := by
  intro s t h stepped
  have next {u : State} (e : step s = .next u) : t = u := Host.Outcome.next.inj (stepped.symm.trans e)
  rcases step_cases s with ⟨-, idle⟩ | ⟨p, rest, -, ⟨-, reset⟩ | ⟨-, -, -, command⟩ | ⟨-, -, -, noCommand⟩ |
    ⟨-, -, -, taken⟩ | ⟨-, -, -, waits⟩⟩
  · exact next idle ▸ h.sampled []
  · exact next reset ▸ reset_inv none rest
  · exact (h.sampled rest).exec (wellFormed_decode _ p.cmdWord) (command.symm.trans stepped)
  · exact next noCommand ▸ h.sampled rest
  · exact next taken ▸ (h.sampled rest).take
  · exact next waits ▸ h.sampled rest

/-! ### The emission cursor (R27, R64) -/

/-- A step in which the duration offered is taken. -/
theorem step_take {s : State} {p : PortInput} {rest : List PortInput} (inputs : s.inputs = p :: rest)
    (rst : p.rst = false) (ready : p.pulseReady = true) (offered : s.cur < s.pq.length) :
    step s = .next (s.sampled rest).take := by
  simp [step, serve, inputs, rst, ready, offered, State.cmdReady, State.pulseValid]

/-- A cursor inside the queue offers a duration (R61). -/
theorem pulseValid_of_lt {s : State} (inside : s.cur < s.pq.length) : s.pulseValid = true :=
  decide_eq_true inside

/-- While a duration is offered the command port is not ready (R70). -/
theorem cmdReady_of_lt {s : State} (inside : s.cur < s.pq.length) : s.cmdReady = false := by
  rw [State.cmdReady, pulseValid_of_lt inside, Bool.not_true]

/-- Settles O8. -/
theorem takingADurationMovesTheCursor : Obligations.TakingADurationMovesTheCursor := by
  intro s p rest inputs rst ready offered
  refine ⟨_, step_take inputs rst ready offered, ?_, by simp⟩
  split
  next more =>
    rw [State.take_of_lt (s.sampled rest) more]
    exact ⟨rfl, rfl, cmdReady_of_lt more⟩
  next last =>
    rw [State.take_of_not_lt (s.sampled rest) last]
    exact ⟨rfl, rfl⟩

/-- What the port offers when the durations of `pq` before the index `k` have been taken: the duration at `k` with its kind
and `pulse_last`, or nothing when `k` is the end (R27, R64, R70). -/
def State.offersAt (pq : List Dur) (k : Nat) (t : State) : Prop :=
  if k = pq.length then t.pq = [] ∧ t.pulseValid = false ∧ t.cmdReady = true
  else t.pulseValid = true ∧ t.pulseDur = pq[k]? ∧ t.pulseIsMark = decide (k % 2 = 0) ∧
    t.pulseLast = decide (k + 1 = pq.length) ∧ t.cmdReady = false

/-- Taking a duration offers the next one. -/
theorem take_offersAt {s : State} (offered : s.cur < s.pq.length) : s.take.offersAt s.pq (s.cur + 1) := by
  unfold State.offersAt
  split
  next last =>
    rw [State.take_of_not_lt s (by omega)]
    exact ⟨rfl, rfl, rfl⟩
  next notLast =>
    have more : s.cur + 1 < s.pq.length := by omega
    rw [State.take_of_lt s more]
    exact ⟨pulseValid_of_lt more, rfl, rfl, rfl, cmdReady_of_lt more⟩

/-- Settles O13, by induction on the samples: each but the last moves CUR by one inside the same queue. -/
theorem wholeSequenceIsOfferedInOrder : Obligations.WholeSequenceIsOfferedInOrder := by
  intro s ready rest
  induction ready generalizing s with
  | nil => exact fun _ _ _ nonempty => absurd rfl nonempty
  | cons p ready ih =>
    intro inputs allReady fits _
    rw [List.length_cons] at fits ⊢
    obtain ⟨rst, pulseReady⟩ := allReady p List.mem_cons_self
    have offered : s.cur < s.pq.length := by omega
    have stepped := step_take inputs rst pulseReady offered
    rcases ready with _ | ⟨q, ready⟩
    · rw [List.length_nil, run_succ 0 s _ stepped]
      exact ⟨_, rfl, by simp, by simp, by simp, take_offersAt (s := s.sampled rest) offered⟩
    · have more : s.cur + 1 < s.pq.length := by
        rw [List.length_cons] at fits
        omega
      rw [State.take_of_lt (s.sampled _) more] at stepped
      rw [run_succ _ s _ stepped]
      obtain ⟨t, ran, left, facade, seq, offers⟩ := ih { s.sampled (q :: ready ++ rest) with cur := s.cur + 1 } rfl
        (fun x hx => allReady x (List.mem_cons_of_mem p hx)) (by show s.cur + 1 + _ ≤ s.pq.length; omega) (by simp)
      refine ⟨t, ran, left, facade, seq, ?_⟩
      rw [show s.cur + ((q :: ready).length + 1) = s.cur + 1 + (q :: ready).length by omega]
      exact offers

/-! ### Registers that few operations write (R22, R26) -/

/-- All but RESOLVE and RELEASE leave the binding and the error record as they are. -/
theorem exec_frame {i : Instr} {s t : State} (ran : exec i s = .next t) (notResolve : ∀ b v, i ≠ .resolve b v)
    (notRelease : i ≠ .release) : t.binding = s.binding ∧ t.err = s.err ∧ t.errInfo = s.errInfo := by
  cases exec_effect ran with
  | resolve brand variant => exact absurd rfl (notResolve brand variant)
  | release => exact absurd rfl notRelease
  | answer => exact ⟨rfl, rfl, rfl⟩
  | generate tgt cmd =>
    obtain ⟨binding, err, errInfo, -⟩ := generate_frame theConfig (builderOf theConfig tgt) cmd s
    exact ⟨binding, err, errInfo⟩

/-- BOUND is whether there is a binding (R22). -/
theorem boundBit_eq (s : State) : s.boundBit = s.binding.isSome := by
  rw [State.boundBit, State.binding, Option.isSome_map]

/-- BRAND is the code of the brand bound (R22, R36). -/
theorem brandReg_eq (s : State) : s.brandReg = s.binding.elim 0 fun tgt => tgt.brand.code := by
  unfold State.brandReg State.binding
  cases s.facade <;> rfl

/-- VARIANT is the variant bound (R22, R36). -/
theorem variantReg_eq (s : State) : s.variantReg = s.binding.elim 0 Target.variant := by
  unfold State.variantReg State.binding
  cases s.facade <;> rfl

/-- Settles O18: the three registers are read off the binding. -/
theorem onlyResolveAndReleaseRebind : Obligations.OnlyResolveAndReleaseRebind := by
  intro i s t ran notResolve notRelease
  obtain ⟨binding, -, -⟩ := exec_frame ran notResolve notRelease
  simp only [boundBit_eq, brandReg_eq, variantReg_eq, binding, and_self]

/-- Settles O19. -/
theorem errorRecordIsSticky : Obligations.ErrorRecordIsSticky := by
  intro i s t ran notResolve notRelease
  exact (exec_frame ran notResolve notRelease).2

/-! ### The fields that a brand does not use (R32, R259 d) -/

/-- Settles O47: a builder reads the view through its control function, and beside it only the assumed swing (Coolix,
RAS_2819T), the assumed power (Whirlpool) and the variant (Gree), each a field its brand uses or the binding fixes. -/
theorem unusedStateNeverShows : Obligations.UnusedStateNeverShows := by
  intro c tgt n v w hc hn hv hw agree
  have ⟨power, swing, _⟩ := agree
  cases tgt with
  | lg =>
    have ctrl := hc.lg.uses n v w hn agree
    simp only [builderOf, buildLg, lgWord, ctrl]
  | whynter =>
    have ctrl := hc.whynter.uses n v w hn agree
    simp only [builderOf, buildWhynter, ctrl]
  | yashima =>
    have ctrl := hc.yashima.ctrl.uses n v w hn agree
    simp only [builderOf, buildYashima, yashimaFrame, ctrl]
  | ballu =>
    have ctrl := hc.ballu.ctrl.uses n v w hn agree
    simp only [builderOf, buildBallu, balluFrame, ctrl]
  | tcl =>
    have ctrl := hc.tcl.ctrl.uses n v w hn agree
    simp only [builderOf, buildTcl, tclFrame, ctrl]
  | mitsubishi =>
    have ctrl := hc.mitsubishi.ctrl.uses n v w hn agree
    simp only [builderOf, buildMitsubishi, mitsubishiFrame, ctrl]
  | midea =>
    have ctrl := hc.midea.ctrl.uses n v w hn agree
    simp only [builderOf, buildMidea, mideaFrame, ctrl]
  | gree model =>
    have ctrl := (hc.gree model).ctrl.uses n v w hn agree
    simp only [builderOf, buildGree, greeModel_eq c model v hv, greeModel_eq c model w hw, greeFrame, ctrl]
  | fujitsu =>
    have ctrl := hc.fujitsu.ctrl.uses n v w hn agree
    simp only [builderOf, buildFujitsu, fujitsuFrame, ctrl]
  | nec =>
    have ctrl := hc.nec.ctrl.uses n v w hn agree
    simp only [builderOf, buildNec, necFrame, ctrl]
  | coolix =>
    have ctrl := hc.coolix.ctrl.uses n v w hn agree
    simp only [builderOf, buildCoolix, coolixFrame, coolixNormal, ctrl, swing hc.coolix.usesSwing]
  | whirlpool =>
    have ctrl := hc.whirlpool.ctrl.uses n v w hn agree
    simp only [builderOf, buildWhirlpool, whirlpoolFrame, ctrl, power hc.whirlpool.usesPower]
  | toshibaGeneric =>
    have ctrl := hc.toshibaGeneric.ctrl.uses n v w hn agree
    simp only [builderOf, buildToshibaGeneric, toshibaGenericFrame, ctrl]
  | toshibaRas2819t =>
    have ctrl0 := hc.ras2819t.ctrl0.uses n v w hn agree
    have ctrl1 := hc.ras2819t.ctrl1.uses n v w hn agree
    simp only [builderOf, buildToshibaRas2819t, ras2819tFrames, ras2819tNormal, ctrl0, ctrl1,
      swing hc.ras2819t.usesSwing]
  | toshibaRacPt1411hwru =>
    have main := hc.racPt.main.uses n v w hn agree
    have swing := hc.racPt.swing.uses n v w hn agree
    simp only [builderOf, buildToshibaRacPt1411hwru, racPtMain, racPtSwing, main, swing]
  | daikin =>
    have block0 := hc.daikin.block0.uses n v w hn agree
    have block1 := hc.daikin.block1.uses n v w hn agree
    have block2 := hc.daikin.block2.uses n v w hn agree
    simp only [builderOf, buildDaikin, daikinBlocks, block0, block1, block2]
  | hitachi =>
    have ctrl := hc.hitachi.ctrl.uses n v w hn agree
    simp only [builderOf, buildHitachi, hitachiFrame, ctrl]

/-! ### The readback of PS and SEQ (R37, R168) -/

/-- PS_FLAGS as a number: its three bits. -/
theorem flags_toNat (ps : ProtocolState) : ps.flags.toNat =
    (if ps.assumedPowerOn then 1 else 0) + (if ps.assumedSwingOn then 2 else 0) + (if ps.previous.isSome then 4 else 0) := by
  unfold ProtocolState.flags
  cases ps.assumedPowerOn <;> cases ps.assumedSwingOn <;> cases ps.previous.isSome <;> rfl

/-- PREV_TEMP as a number: the 16 bits recorded, or 0. -/
theorem prevTempWord_toNat (ps : ProtocolState) :
    ps.prevTempWord.toNat = match ps.previous with | none => 0 | some p => p.temperature.toNat := by
  unfold ProtocolState.prevTempWord
  cases ps.previous with
  | none => rfl
  | some p => exact BitVec.toNat_setWidth_of_le (by decide)

/-- PREV_MODE as a number: the code of the mode recorded, or 0. -/
theorem prevModeWord_toNat (ps : ProtocolState) :
    ps.prevModeWord.toNat = match ps.previous with | none => 0 | some p => p.mode.code.toNat := by
  unfold ProtocolState.prevModeWord
  cases ps.previous with
  | none => rfl
  | some p => exact BitVec.toNat_setWidth_of_le (by decide)

/-- Settles O53. -/
theorem protocolStateQueriesAnswer : Obligations.ProtocolStateQueriesAnswer := by
  intro s fa bound
  have answers (q : BitVec 4) (value : Facade → Word) :=
    congrArg (Host.Outcome.next (φ := Fault) (ρ := Refusal)) (queryBound_some q value s fa bound)
  exact ⟨_, _, _, answers 10 _, flags_toNat fa.ps, answers 11 _, prevTempWord_toNat fa.ps, answers 12 _,
    prevModeWord_toNat fa.ps, answers 13 _, answers 14 _⟩

end Sys2Proof.Machine

/-! The two ports and the order of bits and frames on them (spec/20_memory.md R61 to R70, R80): what serving a sample does
while durations are offered and while none is, where each bit of a byte, of a word and of a frame leaves, and the bits of a
plan. -/

namespace Sys2Proof.Machine

/-! ### Frames sent whole, in order, once a copy (R68, R69, R198 to R200) -/

/-- A plan of blocks sends the bits of its frames in order (R198). -/
theorem planBlocks_bits (d : Descriptor) (fs : List Frame) :
    (planBlocks d fs).flatMap Segment.bits = fs.flatMap (frameBits d.bitOrder) := by
  induction fs with
  | nil => rfl
  | cons f fs ih =>
    cases fs with
    | nil => rfl
    | cons g fs => exact congrArg (frameBits d.bitOrder f ++ ·) ih

/-- A split plan sends the bits of its frame in order (R199). -/
theorem planSplit_bits (d : Descriptor) (f : List Byte) :
    (planSplit d f).flatMap Segment.bits = [Frame.bytes f].flatMap (frameBits d.bitOrder) := by
  rw [(planSplit_spec d f).2.1, List.flatMap_singleton, frameBits]

/-- A tail carries no bit of a frame (R192). -/
theorem setLastTail_bits (t : Trailer) (p : Plan) :
    (setLastTail t p).flatMap Segment.bits = p.flatMap Segment.bits := by
  rcases List.eq_nil_or_concat p with rfl | ⟨q, s, rfl⟩
  · rfl
  · rw [List.concat_eq_append, setLastTail_append, List.flatMap_append, List.flatMap_append]
    rfl

/-- A repeated plan sends the bits of its plan once a copy (R200). -/
theorem planRepeat_bits (d : Descriptor) (n : Nat) (p : Plan) :
    (planRepeat d (n + 1) p).flatMap Segment.bits = (List.replicate (n + 1) (p.flatMap Segment.bits)).flatten := by
  induction n with
  | zero => simp [planRepeat]
  | succ n ih =>
    rw [planRepeat, List.flatMap_append, setLastTail_bits, ih, List.replicate_succ (n := n + 1), List.flatten_cons]

/-- Settles O45: the frames have their lengths, and each of the two shapes a plan can have sends their bits in order. -/
theorem framesAreSentWholeAndInOrder : Obligations.FramesAreSentWholeAndInOrder := by
  intro c tgt n v hc hn hv
  obtain ⟨atLeastOne, atMostThree, lengths⟩ := builderOf_frames c hc tgt n v hn hv
  obtain ⟨k, fits, shape⟩ := builderOf_plan c hc tgt n v hn hv
  refine ⟨atLeastOne, atMostThree, lengths, k + 1, Nat.succ_pos k, fits, ?_⟩
  rcases shape with blocks | ⟨f, frames, -, split⟩
  · rw [blocks, planRepeat_bits, planBlocks_bits]
  · rw [split, planRepeat_bits, planSplit_bits, frames]

/-! ### The place of every bit (R65 to R67) -/

@[simp] theorem bitsOfByte_length (o : BitOrder) (v : Byte) : (bitsOfByte o v).length = 8 := by
  cases o <;> simp [bitsOfByte]

theorem bitsOfByte_lsbFirst_getElem? (v : Byte) {i : Nat} (hi : i < 8) :
    (bitsOfByte .lsbFirst v)[i]? = some (v.getLsbD i) := by
  simp [bitsOfByte, hi]

theorem bitsOfByte_msbFirst_getElem? (v : Byte) {i : Nat} (hi : i < 8) :
    (bitsOfByte .msbFirst v)[i]? = some (v.getLsbD (7 - i)) := by
  simp [bitsOfByte, hi]

theorem bitsOfWord_lsbFirst_getElem? (w : Word) {n i : Nat} (hi : i < n) :
    (bitsOfWord .lsbFirst n w)[i]? = some (w.getLsbD i) := by
  simp [bitsOfWord, hi]

theorem bitsOfWord_msbFirst_getElem? (w : Word) {n i : Nat} (hi : i < n) :
    (bitsOfWord .msbFirst n w)[i]? = some (w.getLsbD (n - 1 - i)) := by
  simp [bitsOfWord, hi]

theorem bitsOfBytes_cons (o : BitOrder) (b : Byte) (bs : List Byte) :
    bitsOfBytes o (b :: bs) = bitsOfByte o b ++ bitsOfBytes o bs := List.flatMap_cons

/-- Bytes leave in ascending index, eight places each, whatever the bit order (R66). -/
theorem bitsOfBytes_getElem? (o : BitOrder) (bs : List Byte) (k : Nat) {i : Nat} (hk : k < bs.length) (hi : i < 8) :
    (bitsOfBytes o bs)[8 * k + i]? = (bitsOfByte o bs[k])[i]? := by
  induction bs generalizing k with
  | nil => exact absurd hk (Nat.not_lt_zero k)
  | cons b bs ih =>
    rw [bitsOfBytes_cons]
    cases k with
    | zero =>
      rw [Nat.mul_zero, Nat.zero_add, List.getElem_cons_zero,
        List.getElem?_append_left (by rw [bitsOfByte_length]; exact hi)]
    | succ k =>
      have later : 8 * (k + 1) + i - (bitsOfByte o b).length = 8 * k + i := by
        rw [bitsOfByte_length]
        omega
      rw [List.getElem?_append_right (by rw [bitsOfByte_length]; omega), later, List.getElem_cons_succ]
      exact ih k (Nat.lt_of_succ_lt_succ hk)

/-- Settles O59. -/
theorem bitsLeaveInTheirOrder : Obligations.BitsLeaveInTheirOrder :=
  ⟨fun v => ⟨fun o => bitsOfByte_length o v, fun _ hi =>
      ⟨bitsOfByte_lsbFirst_getElem? v hi, bitsOfByte_msbFirst_getElem? v hi⟩⟩,
    fun o bs => ⟨bitsOfBytes_length o bs, rfl, fun k _ hk hi => bitsOfBytes_getElem? o bs k hk hi⟩,
    fun n w => ⟨fun o => ⟨bitsOfWord_length o n w, rfl⟩, fun _ hi =>
      ⟨bitsOfWord_lsbFirst_getElem? w hi, bitsOfWord_msbFirst_getElem? w hi⟩⟩⟩

/-! ### Serving a sample (R61, R70, R450) -/

/-- With nothing driven a step ends the response on the port (R450). -/
theorem step_nil {s : State} (inputs : s.inputs = []) : step s = .next (s.sampled []) := by
  simp only [step, inputs]

/-- A step serves the next sample (R61). -/
theorem step_cons {s : State} {p : PortInput} {rest : List PortInput} (inputs : s.inputs = p :: rest) :
    step s = serve p s rest := by
  simp only [step, inputs]

/-- With no duration offered the command port is ready (R70). -/
theorem cmdReady_of_le {s : State} (outside : s.pq.length ≤ s.cur) : s.cmdReady = true := by
  simp [State.cmdReady, State.pulseValid, outside]

section
variable {p : PortInput} {s : State} (rest : List PortInput) (rst : p.rst = false)
include rst

/-- While the command port is ready, the command port alone decides what a sample does (R70). -/
theorem serve_of_cmdReady (ready : s.cmdReady = true) : serve p s rest =
    if p.cmdValid then exec (decode s.binding p.cmdWord) (s.sampled rest) else .next (s.sampled rest) := by
  simp only [serve, rst, ready, Bool.false_eq_true, if_false, if_true]

/-- While a duration is offered, `pulse_ready` alone decides what a sample does (R27, R155). -/
theorem serve_of_lt (offered : s.cur < s.pq.length) : serve p s rest =
    if p.pulseReady then .next (s.sampled rest).take else .next (s.sampled rest) := by
  simp only [serve, rst, cmdReady_of_lt offered, Bool.false_eq_true, if_false]

end

/-- Settles O6. -/
theorem stepRunsTheDecodedCommand : Obligations.StepRunsTheDecodedCommand := by
  rintro s p rest i inputs rst valid ready rfl
  refine ⟨wellFormed_decode s.binding p.cmdWord, ?_⟩
  rw [step_cons inputs, serve_of_cmdReady rest rst ready, if_pos valid]
  rfl

/-- While durations are offered, what is driven on the command port makes no difference (R70, R155). -/
theorem step_ignores_command {s : State} {p : PortInput} {rest : List PortInput} (valid : Bool) (cw : Word)
    (inputs : s.inputs = p :: rest) (rst : p.rst = false) (offered : s.cur < s.pq.length) :
    step { s with inputs := { p with cmdValid := valid, cmdWord := cw } :: rest } = step s := by
  rw [step_cons inputs, serve_of_lt rest rst offered, step_cons rfl, serve_of_lt rest (by exact rst) (by exact offered)]
  rfl

/-- With `pulse_ready` low the duration offered stays offered (R61, R462). -/
theorem step_waits {s : State} {p : PortInput} {rest : List PortInput} (inputs : s.inputs = p :: rest)
    (rst : p.rst = false) (notReady : p.pulseReady = false) (offered : s.cur < s.pq.length) :
    step s = .next (s.sampled rest) := by
  rw [step_cons inputs, serve_of_lt rest rst offered, notReady, if_neg Bool.false_ne_true]

/-- With no duration and no command offered the encoder is idle (R450). -/
theorem step_idle {s : State} {p : PortInput} {rest : List PortInput} (inputs : s.inputs = p :: rest)
    (rst : p.rst = false) (noCommand : p.cmdValid = false) (outside : s.pq.length ≤ s.cur) :
    step s = .next (s.sampled rest) := by
  rw [step_cons inputs, serve_of_cmdReady rest rst (cmdReady_of_le outside), noCommand, if_neg Bool.false_ne_true]

/-- Settles O9, a lemma for each clause. -/
theorem nothingMovesWithoutAHandshake : Obligations.NothingMovesWithoutAHandshake := by
  refine ⟨fun s p rest valid cw => step_ignores_command valid cw, fun s p rest inputs rst notReady offered => ?_,
    fun s p rest inputs rst noCommand outside => step_idle inputs rst noCommand outside, fun s inputs => ?_⟩
  · exact ⟨_, step_waits inputs rst notReady offered, rfl, pulseValid_of_lt offered, rfl, rfl, rfl, cmdReady_of_lt offered⟩
  · rw [step_nil inputs, State.sampled, ← inputs]

/-! ### Several encoders (R80) -/

/-- A step of the platform puts the next state of the encoder stepped in its place. -/
theorem platformStep_eq {p : List State} {i : Nat} {s t : State} (found : p[i]? = some s) (stepped : step s = .next t) :
    Platform.step i p = .next (p.set i t) := by
  simp only [Platform.step, found, stepped]

/-- Settles O14. -/
theorem instancesAreIndependent : Obligations.InstancesAreIndependent := by
  intro p i hi
  obtain ⟨t, stepped⟩ := step_next p[i]
  exact ⟨p.set i t, platformStep_eq (List.getElem?_eq_getElem hi) stepped, List.length_set,
    fun j other => List.getElem?_set_ne other.symm⟩

end Sys2Proof.Machine

/-! The command word (spec/30_encoding.md): what a word decodes to by its operation code, the round trip of decoding and
encoding, the words of the assembler, and the settings that an operand code stands for. -/

namespace Sys2Proof

/-! ### What a word decodes to, by its operation code (R90, R114) -/

section
variable (b : Option Target) {cw : Word}

/-- Operation 1 is RESOLVE (R91). -/
theorem decode_of_opField_one (op : opField cw = 1) : decode b cw = .resolve (brandField cw) (variantField cw) := by
  rw [decode, op]
  rfl

/-- Operation 2 is GENERATE, read by the binding (R92, R107). -/
theorem decode_of_opField_two (op : opField cw = 2) : decode b cw = decodeGenerate b (climateField cw) := by
  rw [decode, op]
  rfl

/-- Operation 3 is QUERY, read by its selector (R93). -/
theorem decode_of_opField_three (op : opField cw = 3) : decode b cw = decodeQuery (selField cw) := by
  rw [decode, op]
  rfl

/-- The operations without operands: RELEASE and the reserved codes (R99, R102). -/
abbrev IsPlainOp (op : BitVec 4) : Prop := op ≠ 1 ∧ op ≠ 2 ∧ op ≠ 3

/-- The word of an operation code alone, its other bits 0. -/
def plainWord (op : BitVec 4) : Word := op ++ 0#28

@[simp] theorem opField_plainWord : ∀ op : BitVec 4, opField (plainWord op) = op := by decide

/-- Without operands the operation code alone decides: neither the other bits nor the binding are read (R103, R114). -/
theorem decode_of_isPlainOp (plain : IsPlainOp (opField cw)) : decode b cw = decode none (plainWord (opField cw)) := by
  obtain ⟨notResolve, notGenerate, notQuery⟩ := plain
  unfold decode
  rw [opField_plainWord]
  split
  case h_2 op => exact absurd (BitVec.eq_of_toNat_eq op) notResolve
  case h_3 op => exact absurd (BitVec.eq_of_toNat_eq op) notGenerate
  case h_4 op => exact absurd (BitVec.eq_of_toNat_eq op) notQuery
  all_goals rfl

/-- The row of an operation without operands has the word of its code alone (R99, R102, R103). -/
theorem encode_decode_plainWord : ∀ op, IsPlainOp op → encode (decode none (plainWord op)) = plainWord op := by decide

/-- Every operation code is one of RESOLVE, GENERATE, QUERY and those without operands (R114). -/
theorem opField_cases (cw : Word) : opField cw = 1 ∨ opField cw = 2 ∨ opField cw = 3 ∨ IsPlainOp (opField cw) := by
  unfold IsPlainOp
  tauto

end

/-- Settles O2: each operation is decoded from its own fields, or from its code alone. -/
theorem decodeIgnoresReservedFields : Obligations.DecodeIgnoresReservedFields := by
  intro b cw cw' sameOp sameResolve sameGenerate sameQuery
  rcases opField_cases cw with op | op | op | plain
  · obtain ⟨brand, variant⟩ := sameResolve op
    rw [decode_of_opField_one b op, decode_of_opField_one b (sameOp.trans op), brand, variant]
  · rw [decode_of_opField_two b op, decode_of_opField_two b (sameOp.trans op), sameGenerate op]
  · rw [decode_of_opField_three b op, decode_of_opField_three b (sameOp.trans op), sameQuery op]
  · rw [decode_of_isPlainOp b plain, decode_of_isPlainOp b (sameOp ▸ plain), sameOp]

/-! ### The round trip (R113, R114) -/

/-- Settles O1: the fields of the word are the operands, and a row of GENERATE stands under the one binding (for Gree: under
its seven) that the decoder gives that row. -/
theorem decodeOfEncodeIsTheInstruction : Obligations.DecodeOfEncodeIsTheInstruction := by
  intro b i stands
  cases i with
  | resolve brand variant => exact decode_encodeResolve b brand variant
  | generateLg cmd | generateWhynter cmd | generateYashima cmd | generateBallu cmd | generateTcl cmd | generateMitsubishi cmd
  | generateMidea cmd | generateFujitsu cmd | generateNec cmd | generateCoolix cmd | generateWhirlpool cmd
  | generateToshibaGeneric cmd | generateToshibaRas2819t cmd | generateToshibaRacPt1411hwru cmd | generateDaikin cmd
  | generateHitachi cmd | generateUnbound cmd =>
    obtain rfl := of_decide_eq_true stands
    exact decode_encodeGenerate _ cmd
  | generateGree cmd =>
    match b, stands with
    | some (.gree model), _ => exact decode_encodeGenerate (some (.gree model)) cmd
  | queryTemperatureMin | queryTemperatureMax | queryTemperatureStep | querySupportedHvacModes | querySupportedFanModes
  | querySupportedSwingModes | queryBrandList | queryReservedSelector | queryStatus | queryBinding | queryPsFlags
  | queryPrevTemp | queryPrevMode | queryModeTrans | querySeq | queryErrInfo =>
    exact decode_encodeQuery b _
  | release | reservedOp0 | reservedOp5 | reservedOp6 | reservedOp7 | reservedOp8 | reservedOp9 | reservedOpA | reservedOpB
  | reservedOpC | reservedOpD | reservedOpE | reservedOpF => rfl

/-- The instruction of a word keeps its operation code (R114). -/
theorem opField_encode_decode (b : Option Target) (cw : Word) : opField (encode (decode b cw)) = opField cw := by
  rcases opField_cases cw with op | op | op | plain
  · rw [decode_of_opField_one b op, encode, opField_encodeResolve, op]
  · rw [decode_of_opField_two b op, encode_decodeGenerate, opField_encodeGenerate, op]
  · rw [decode_of_opField_three b op, encode_decodeQuery, opField_encodeQuery, op]
  · rw [decode_of_isPlainOp b plain, encode_decode_plainWord _ plain, opField_plainWord]

/-- Settles O3: what a word decodes to stands under the binding, so its own word decodes to it again. -/
theorem everyWordDecodes : Obligations.EveryWordDecodes := fun b cw =>
  have stands := wellFormed_decode b cw
  ⟨stands, opField_encode_decode b cw, decodeOfEncodeIsTheInstruction b _ stands⟩

/-- Settles O4: each word is closed, and the decoder runs on it. -/
theorem wordsOfTheSpecDecode : Obligations.WordsOfTheSpecDecode := by
  unfold Obligations.WordsOfTheSpecDecode
  decide

namespace Machine

/-- Settles O41: with nothing bound the decoder is given no binding. -/
theorem unboundGenerateAnswersNotBound : Obligations.UnboundGenerateAnswersNotBound := by
  intro cmd s unbound
  have binding : s.binding = none := by rw [State.binding, unbound, Option.map_none]
  rw [binding]
  exact ⟨decode_encodeGenerate none cmd, rfl⟩

/-- Settles O55: the meaning of each of these rows is the one refusal. -/
theorem reservedEncodingsChangeNothing : Obligations.ReservedEncodingsChangeNothing := by
  intro s i reserved
  have refuses : exec i s = .next s.refuseIllegalOp := by fin_cases reserved <;> rfl
  exact refuses

/-! ### The words of the assembler (R113) -/

/-- A QUERY word as a number (R113). -/
theorem encodeQuery_toNat (n : BitVec 4) : (encodeQuery n).toNat = 0x30000000 + n.toNat * 2 ^ 24 := by
  rw [encodeQuery_eq]
  simp only [toNat_append_add, BitVec.toNat_ofNat]
  ring

/-- Settles O5: the words of the encoder as sums, with each number given in place of its field's. -/
theorem assembledWords : Obligations.AssembledWords := by
  refine ⟨fun brand => encodeResolve_toNat _ 0xF, fun brand variant small => ?_, fun mode temp fan swing => ?_,
    fun sel small => ?_, rfl⟩
  · rw [assemble, encodeResolve_toNat, BitVec.toNat_ofNat, Nat.mod_eq_of_lt small]
  · have field : ((BitVec.ofInt 16 temp).toNat : Int) = temp % 65536 := by
      rw [BitVec.toNat_ofInt]
      omega
    rw [assemble, encodeGenerate_toNat, ← field]
    push_cast
    rfl
  · rw [assemble, encodeQuery_toNat, BitVec.toNat_ofNat, Nat.mod_eq_of_lt small]

/-! ### The settings that a code stands for (R94 to R96, R148 to R150) -/

section
variable {d : Descriptor}

/-- A code of no supported mode becomes the default mode (R148). -/
theorem normMode_of_unsupported {m : BitVec 4} (unsupported : ∀ x : Mode, x.code = m → d.supportedModes x = false) :
    normMode d m = d.defaultMode := by
  rw [normMode, (acceptedMode_eq_none d m).2 unsupported, Option.getD_none]

/-- A code of no supported fan speed becomes the default fan speed (R149). -/
theorem normFan_of_unsupported {f : BitVec 4} (unsupported : ∀ x : FanSpeed, x.code = f → d.supportedFans x = false) :
    normFan d f = d.defaultFan := by
  rw [normFan, (acceptedFan_eq_none d f).2 unsupported, Option.getD_none]

/-- No swing setting is accepted when every one of that code is unsupported (R150). -/
theorem acceptedSwing_eq_none (d : Descriptor) (w : BitVec 4) :
    acceptedSwing d w = none ↔ ∀ x : SwingSetting, x.code = w → d.supportedSwings x = false := by
  simp [Option.eq_none_iff_forall_ne_some, acceptedSwing_eq_some]

/-- A code of no supported swing setting becomes Off, whatever the brand (R150). -/
theorem normSwing_of_unsupported {w : BitVec 4}
    (unsupported : ∀ x : SwingSetting, x.code = w → d.supportedSwings x = false) : normSwing d w = .off := by
  rw [normSwing, (acceptedSwing_eq_none d w).2 unsupported, Option.getD_none]

end

/-- Settles O20: the tables of codes, and a lemma for each kind of setting, supported or not. -/
theorem settingsAreNormalised : Obligations.SettingsAreNormalised :=
  ⟨rfl, rfl, rfl, fun d => ⟨fun _ => normMode_code d, fun _ => normMode_of_unsupported, fun _ => normFan_code d,
    fun _ => normFan_of_unsupported, fun _ => normSwing_code d, fun _ => normSwing_of_unsupported⟩⟩

end Machine
end Sys2Proof

/-! The façade (spec/40_facade_ops.md): the Registry, RESOLVE and RELEASE; how normalisation treats the temperature; what a
GENERATE depends on; and the words that QUERY answers. -/

namespace Sys2Proof

/-! ### The Registry (R97, R98, R141, R142) -/

/-- The code of a brand is below 15 (R97). -/
theorem brandCode_lt (b : Brand) : b.code.toNat < 15 := by cases b <;> decide

/-- The Registry holds no code from 15 on (R106, R141). -/
theorem registry_of_le (c : Configuration) {code : BitVec 8} (large : 15 ≤ code.toNat) : registry c code = none := by
  refine Option.eq_none_iff_forall_ne_some.2 fun b found => ?_
  obtain ⟨rfl, -⟩ := (registry_eq_some c code b).1 found
  exact absurd (brandCode_lt b) large.not_gt

/-- A variant code that the brand has not counts as 0 (R142). -/
theorem effectiveVariant_of_le {b : Brand} {v : BitVec 4} (invalid : b.variants ≤ v.toNat) : effectiveVariant b v = 0 :=
  if_neg invalid.not_gt

/-- Settles O16: the tables brand by brand, and the laws of the Registry, of the effective variant and of targets. -/
theorem registryIsExact : Obligations.RegistryIsExact :=
  ⟨rfl, fun b => by cases b <;> rfl, ⟨rfl, rfl, rfl, by decide⟩, registry_eq_some, fun c _ => registry_of_le c,
    fun b v valid => ⟨brand_targetOf b v, variant_targetOf b v valid⟩,
    fun b _ invalid => congrArg (Target.of b) (effectiveVariant_of_le invalid), targetOf_brand_variant⟩

namespace Machine

/-! ### RESOLVE and RELEASE (R140 to R145) -/

/-- RESOLVE of a brand that the Registry does not hold takes the exception and does nothing else (R143, R414). -/
theorem resolve_of_unknown {c : Configuration} {brand : BitVec 8} (unknown : registry c brand = none) (variant : BitVec 4)
    (s : State) : resolve c brand variant s = s.raiseUnsupportedBrand brand variant := by
  simp only [resolve, unknown]
  rfl

/-- RESOLVE of a brand that the Registry holds constructs the façade of its effective variant (R140, R142). -/
theorem resolve_of_found {c : Configuration} {brand : BitVec 8} {b : Brand} (found : registry c brand = some b)
    (variant : BitVec 4) (s : State) :
    resolve c brand variant s =
      (s.construct (Target.of b (effectiveVariant b variant))).answer .ok
        (brandVariantWord brand (effectiveVariant b variant)) := by
  simp only [resolve, found]
  rfl

/-- BRAND and VARIANT of a façade constructed for a variant that the brand has (R22, R140). -/
theorem construct_answer_registers (s : State) {b : Brand} {v : BitVec 4} (valid : v.toNat < b.variants) (st : Status)
    (data : Word) :
    ((s.construct (Target.of b v)).answer st data).brandReg = b.code ∧
      ((s.construct (Target.of b v)).answer st data).variantReg = v :=
  ⟨congrArg Brand.code (brand_targetOf b v), variant_targetOf b v valid⟩

/-- Settles O15: the exception and the construction, register by register. -/
theorem resolveBindsOrRaises : Obligations.ResolveBindsOrRaises := by
  refine fun brand variant s => ⟨rfl, fun c t ran => ?_⟩
  subst ran
  cases found : registry c brand with
  | none =>
    rw [resolve_of_unknown found]
    exact ⟨rfl, rfl, rfl, rfl, rfl, brandVariantWord_toNat brand variant, rfl, rfl, rfl, rfl, rfl, rfl⟩
  | some b =>
    rw [resolve_of_found found]
    obtain ⟨code, -⟩ := (registry_eq_some c brand b).1 found
    obtain ⟨brandReg, variantReg⟩ := construct_answer_registers s (effectiveVariant_lt b variant) .ok
      (brandVariantWord brand (effectiveVariant b variant))
    refine ⟨rfl, rfl, rfl, rfl, rfl, brandReg.trans code, variantReg, ⟨_, rfl, rfl, rfl, rfl, rfl⟩, rfl, rfl, rfl, rfl,
      rfl, rfl, _, rfl, ?_⟩
    rw [variantReg, brandVariantWord_toNat]

/-- What RELEASE and its answer leave is the reset state, but for the response and the samples to come (R36, R145). -/
theorem destroy_answer_eq (s : State) (st : Status) (data : Word) :
    s.destroy.answer st data = { State.reset with rsp := some ⟨st, data⟩, inputs := s.inputs } := rfl

/-- Settles O17. -/
theorem releaseEqualsReset : Obligations.ReleaseEqualsReset :=
  fun s => congrArg Host.Outcome.next (destroy_answer_eq s .ok 0)

/-- Settles O54: GENERATE while unbound is the refusal itself, and a query that needs a binding finds none. -/
theorem unboundCommandsAnswerNotBound : Obligations.UnboundCommandsAnswerNotBound := by
  intro s cmd i unbound needsBinding
  fin_cases needsBinding
  · rfl
  all_goals exact congrArg Host.Outcome.next (queryBound_none _ _ s unbound)

/-! ### The temperature (R151) -/

section
variable {d : Descriptor} {t : Int}

/-- At or below the minimum the temperature becomes the minimum. -/
theorem normTemp_of_le_min (hd : d.WellFormed) (low : t ≤ d.tempMin) : normTemp d t = d.tempMin := by
  obtain ⟨-, ordered, -⟩ := hd.bounds
  have clamped : clampTemp d t = d.tempMin := by rw [clampTemp, max_eq_right low, min_eq_left ordered]
  rw [normTemp, clamped, quantise_of_even d fun whole => (hd.evenBounds whole).1]

/-- At or above the maximum the temperature becomes the maximum. -/
theorem normTemp_of_max_le (hd : d.WellFormed) (high : d.tempMax ≤ t) : normTemp d t = d.tempMax := by
  have clamped : clampTemp d t = d.tempMax := min_eq_right (high.trans (le_max_left t d.tempMin))
  rw [normTemp, clamped, quantise_of_even d fun whole => (hd.evenBounds whole).2]

/-- Between the bounds a whole-degree brand drops the half degree and no other changes the temperature. -/
theorem normTemp_of_mem (low : d.tempMin ≤ t) (high : t ≤ d.tempMax) :
    normTemp d t = if d.tempStep = .whole then t - t % 2 else t := by
  rw [normTemp, clampTemp_of_mem d low high, quantise]
  cases d.tempStep with
  | half => rfl
  | whole =>
    simp only [floorHalf, if_true]
    omega

end

/-- Settles O21. -/
theorem temperatureIsClampedThenQuantised : Obligations.TemperatureIsClampedThenQuantised :=
  fun _ _ hd => ⟨normTemp_of_le_min hd, normTemp_of_max_le hd, normTemp_of_mem⟩

/-! ### What a GENERATE depends on (R151, R156) -/

/-- The sequence, the next PS and the answer of a GENERATE are fixed by the façade and the normalised command. -/
theorem generate_congr {c : Configuration} (b : Builder) {s u : State} {fa : Facade} (hs : s.facade = some fa)
    (hu : u.facade = some fa) {x y : ClimateCommand}
    (same : normalise (c.desc fa.target) x = normalise (c.desc fa.target) y) :
    (generate c b x s).pq = (generate c b y u).pq ∧ (generate c b x s).facade = (generate c b y u).facade ∧
      (generate c b x s).rsp = (generate c b y u).rsp := by
  simp only [generate_bound _ _ _ _ _ hs, generate_bound _ _ _ _ _ hu, same, and_self]

/-- DIAG of a GENERATE is fixed by the façade and the operands (R152). -/
theorem generate_diag {c : Configuration} (b : Builder) {s : State} {fa : Facade} (bound : s.facade = some fa)
    (cmd : ClimateCommand) : (generate c b cmd s).diag = diagnose (c.desc fa.target) cmd := by
  rw [generate_bound _ _ _ _ _ bound]

/-- Settles O23: both temperatures normalise to the bound. -/
theorem outOfRangeTemperatureEncodesAsTheBound : Obligations.OutOfRangeTemperatureEncodesAsTheBound := by
  intro s fa m f w x y bound beyond
  have hd := desc_wellFormed theConfig theConfig_wellFormed fa.target
  have sameTemp : normTemp (theConfig.desc fa.target) x.toInt = normTemp (theConfig.desc fa.target) y.toInt := by
    rcases beyond with ⟨hx, hy⟩ | ⟨hx, hy⟩
    · rw [normTemp_of_le_min hd hx, normTemp_of_le_min hd hy]
    · rw [normTemp_of_max_le hd hx, normTemp_of_max_le hd hy]
  have same : normalise (theConfig.desc fa.target) ⟨m, f, w, x⟩ = normalise (theConfig.desc fa.target) ⟨m, f, w, y⟩ := by
    simp only [normalise, halfDegrees, sameTemp]
  obtain ⟨pq, facade, -⟩ := generate_congr (builderOf theConfig fa.target) bound bound same
  exact ⟨_, _, exec_generate fa.target _ s, exec_generate fa.target _ s, pq, facade⟩

/-- A GENERATE word on a bound encoder runs the builder of the binding (R92, R107, R147). -/
theorem exec_decode_generate {cw : Word} (op : opField cw = 2) {s : State} {fa : Facade} (bound : s.facade = some fa) :
    exec (decode s.binding cw) s = .next (generate theConfig (builderOf theConfig fa.target) (climateField cw) s) := by
  rw [State.binding, bound, Option.map_some, decode_of_opField_two _ op]
  exact exec_generate fa.target _ s

/-- Settles O46: both encoders run the same builder on the same operands. -/
theorem generateIsDeterministic : Obligations.GenerateIsDeterministic := by
  intro cw s u fa op hs hu
  obtain ⟨pq, facade, rsp⟩ := generate_congr (c := theConfig) (builderOf theConfig fa.target) hs hu
    (rfl : normalise _ (climateField cw) = _)
  refine ⟨_, _, exec_decode_generate op hs, exec_decode_generate op hu, pq, facade, rsp, ?_⟩
  rw [generate_diag _ hs, generate_diag _ hu]

/-! ### The words that QUERY answers (R24, R37, R160 to R167) -/

/-- A flag at place `i` is the bit `i` of its word and no other. -/
theorem flagAt_getLsbD (i j : Nat) (hi : i < 32) (b : Bool) : (flagAt i b).getLsbD j = (decide (j = i) && b) := by
  cases b with
  | false => simp [flagAt]
  | true =>
    rw [Bool.eq_iff_iff]
    simp only [flagAt, if_true, BitVec.getLsbD_shiftLeft, BitVec.getLsbD_one, Bool.and_eq_true, Bool.not_eq_true',
      decide_eq_true_eq, decide_eq_false_iff_not, and_true]
    omega

/-- A word of flags, the first at place `i` and the others above it, beside the bits of `w`: the way the masks of R37 are
made. -/
def flagsFrom (i : Nat) (w : Word) : List Bool → Word
  | [] => w
  | b :: bs => flagsFrom (i + 1) (w ||| flagAt i b) bs

theorem flagsFrom_getLsbD (bs : List Bool) (j : Nat) : ∀ (i : Nat) (w : Word), i + bs.length ≤ 32 →
    (flagsFrom i w bs).getLsbD j = (w.getLsbD j || (decide (i ≤ j) && bs.getD (j - i) false)) := by
  induction bs with
  | nil => simp [flagsFrom]
  | cons b bs ih =>
    intro i w fits
    rw [List.length_cons] at fits
    rw [flagsFrom, ih (i + 1) _ (by omega), BitVec.getLsbD_or, flagAt_getLsbD i j (by omega)]
    rcases Nat.lt_trichotomy j i with below | rfl | above
    · simp [below.ne, below.not_ge, (below.trans (Nat.lt_succ_self i)).not_ge]
    · simp
    · have next : j - i = (j - (i + 1)) + 1 := by omega
      simp [above.ne', above.le, Nat.succ_le_of_lt above, next]

/-- The mask of a list of flags, the first at place 0. -/
def maskOf (bs : List Bool) : Word := flagsFrom 0 0#32 bs

section
variable {bs : List Bool} (fits : bs.length ≤ 32)
include fits

/-- Bit `j` of a mask is the flag at place `j` of its list. -/
theorem maskOf_getLsbD (j : Nat) : (maskOf bs).getLsbD j = bs.getD j false := by
  rw [maskOf, flagsFrom_getLsbD bs j 0 0#32 (by omega)]
  simp

/-- A mask of `n` flags is a number of `n` bits. -/
theorem maskOf_lt : (maskOf bs).toNat < 2 ^ bs.length := by
  refine Nat.lt_pow_two_of_testBit _ fun j above => ?_
  rw [BitVec.testBit_toNat, maskOf_getLsbD fits, List.getD_eq_default _ _ above]

end

/-- SUPPORTED_MODES has bit `i` for the mode of code `i`, and seven bits (R163). -/
theorem modesMask_spec (p : Mode → Bool) :
    (∀ m : Mode, (modesMask p).getLsbD m.code.toNat = p m) ∧ (modesMask p).toNat < 2 ^ 7 := by
  have mask : modesMask p = maskOf [p .off, p .heat, p .cool, p .dry, p .fanOnly, p .auto, p .heatCool] := by
    simp [maskOf, flagsFrom, modesMask]
  rw [mask]
  refine ⟨fun m => ?_, maskOf_lt (by simp)⟩
  rw [maskOf_getLsbD (by simp)]
  cases m <;> rfl

/-- SUPPORTED_FANS has bit `i` for the fan speed of code `i`, and five bits (R164). -/
theorem fansMask_spec (p : FanSpeed → Bool) :
    (∀ f : FanSpeed, (fansMask p).getLsbD f.code.toNat = p f) ∧ (fansMask p).toNat < 2 ^ 5 := by
  have mask : fansMask p = maskOf [p .auto, p .low, p .medium, p .high, p .quiet] := by
    simp [maskOf, flagsFrom, fansMask]
  rw [mask]
  refine ⟨fun f => ?_, maskOf_lt (by simp)⟩
  rw [maskOf_getLsbD (by simp)]
  cases f <;> rfl

/-- SUPPORTED_SWINGS has bit `i` for the swing setting of code `i`, and four bits (R165). -/
theorem swingsMask_spec (p : SwingSetting → Bool) :
    (∀ w : SwingSetting, (swingsMask p).getLsbD w.code.toNat = p w) ∧ (swingsMask p).toNat < 2 ^ 4 := by
  have mask : swingsMask p = maskOf [p .off, p .vertical, p .horizontal, p .both] := by
    simp [maskOf, flagsFrom, swingsMask]
  rw [mask]
  refine ⟨fun w => ?_, maskOf_lt (by simp)⟩
  rw [maskOf_getLsbD (by simp)]
  cases w <;> rfl

/-- The brands in the order of their codes (R97). -/
def brandsByCode : List Brand :=
  [.lg, .daikin, .mitsubishi, .toshiba, .midea, .gree, .fujitsu, .tcl, .ballu, .coolix, .hitachi, .whirlpool, .whynter,
    .yashima, .nec]

/-- The brand at place `i` is the brand of code `i`. -/
theorem brandsByCode_getElem? (i : Nat) (b : Brand) : brandsByCode[i]? = some b ↔ b.code.toNat = i := by
  constructor
  · have codes : ∀ k : Fin brandsByCode.length, brandsByCode[k].code.toNat = k := by decide
    intro listed
    obtain ⟨inside, rfl⟩ := List.getElem?_eq_some_iff.1 listed
    exact codes ⟨i, inside⟩
  · rintro rfl
    cases b <;> rfl

/-- BRAND_LIST has bit `i` for the brand of code `i`, and no bit that is no brand's (R166). -/
theorem brandsMask_getLsbD (p : Brand → Bool) (i : Nat) :
    (brandsMask p).getLsbD i = true ↔ ∃ b : Brand, b.code.toNat = i ∧ p b = true := by
  have mask : brandsMask p = maskOf (brandsByCode.map p) := by simp [maskOf, flagsFrom, brandsMask, brandsByCode]
  rw [mask, maskOf_getLsbD (by simp [brandsByCode])]
  simp only [← brandsByCode_getElem?]
  cases found : brandsByCode[i]? <;> simp [found]

/-- A bound of a well-formed descriptor is the number that its register holds (R37; log 3). -/
theorem boundWord_toNat {t : Int} (positive : 0 < t) (fits : t < 65536) : ((BitVec.ofInt 32 t).toNat : Int) = t := by
  rw [BitVec.toNat_ofInt]
  omega

/-- TEMP_STEP as a choice of two (R162). -/
theorem stepWord_eq (step : TempStep) : stepWord step = if step = .whole then 2 else 1 := by
  cases step <;> rfl

/-- STATUS as a number: its five bits (R24, R25). -/
theorem statusWord_toNat (s : State) : s.statusWord.toNat =
    (if s.boundBit then 1 else 0) + (if s.err then 2 else 0) + (if s.diag.clamped then 4 else 0) +
      (if s.diag.defaulted then 8 else 0) + (if s.diag.ignored then 16 else 0) := by
  unfold State.statusWord Diag.bits
  cases s.boundBit <;> cases s.err <;> cases s.diag.clamped <;> cases s.diag.defaulted <;> cases s.diag.ignored <;> rfl

/-- Settles O51: each query answers its word of the descriptor; a mask is read at the place of each code. -/
theorem capabilityQueriesAnswer : Obligations.CapabilityQueriesAnswer := by
  intro s fa bound
  have answers (q : BitVec 4) (value : Facade → Word) :=
    congrArg (Host.Outcome.next (φ := Fault) (ρ := Refusal)) (queryBound_some q value s fa bound)
  have hd := desc_wellFormed theConfig theConfig_wellFormed fa.target
  obtain ⟨positive, ordered, fits⟩ := hd.bounds
  obtain ⟨modes, modes_lt⟩ := modesMask_spec (theConfig.desc fa.target).supportedModes
  obtain ⟨fans, fans_lt⟩ := fansMask_spec (theConfig.desc fa.target).supportedFans
  obtain ⟨swings, swings_lt⟩ := swingsMask_spec (theConfig.desc fa.target).supportedSwings
  exact ⟨_, _, _, _, _, _,
    answers 0 _, boundWord_toNat positive (ordered.trans_lt fits),
    answers 1 _, boundWord_toNat (positive.trans_le ordered) fits,
    answers 2 _, stepWord_eq _,
    answers 3 _, modes, modes_lt, (modes .off).trans hd.modeOff,
    answers 4 _, fans, fans_lt,
    answers 5 _, swings, swings_lt, (swings .off).trans hd.swingOff⟩

/-- Settles O52: BRAND_LIST is read at the place of each code, and a place below 32 is a code of 8 bits. -/
theorem unconditionalQueriesAnswer : Obligations.UnconditionalQueriesAnswer := by
  intro s
  refine ⟨_, _, _, rfl, fun i hi => ?_, rfl, statusWord_toNat s, rfl, brandVariantWord_toNat _ _, rfl⟩
  have code (b : Brand) : b.code.toNat = i ↔ b.code = BitVec.ofNat 8 i := by
    rw [BitVec.toNat_eq, BitVec.toNat_ofNat, Nat.mod_eq_of_lt (by omega)]
  simp only [brandsMask_getLsbD, registry_eq_some, code]

end Machine
end Sys2Proof

/-! The pulse encoding primitives (spec/41_pulse_primitives.md R194 to R202): the place of each duration of a segment, the parity
of a sequence, split and repeated plans, and the alternation of what a GENERATE emits. -/

namespace Sys2Proof.Machine

/-! ### The durations of a segment, place by place (R194) -/

theorem headerPulses_length (h : Option (Dur × Dur)) : (headerPulses h).length = if h.isSome then 2 else 0 := by
  cases h <;> rfl

/-- Two pulses a bit, the second of which tells the bit. -/
theorem bitsPulses_getElem? (tp : TimingProfile) (bs : List Bool) {i : Nat} (hi : i < bs.length) :
    (bs.flatMap (bitPulses tp))[2 * i]? = some ⟨.mark, tp.bitMark⟩ ∧
      (bs.flatMap (bitPulses tp))[2 * i + 1]? = some ⟨.space, if bs[i] then tp.oneSpace else tp.zeroSpace⟩ := by
  induction bs generalizing i with
  | nil => exact absurd hi (Nat.not_lt_zero i)
  | cons b bs ih =>
    cases i with
    | zero => exact ⟨rfl, rfl⟩
    | succ i => exact ih (Nat.lt_of_succ_lt_succ hi)

section
variable (tp : TimingProfile) (s : Segment)

/-- The header pair comes first. -/
theorem serSeg_getElem?_header {k : Nat} (hk : k < (headerPulses s.hdr).length) :
    (serSeg tp s)[k]? = ((headerPulses s.hdr)[k]?).map Pulse.dur := by
  rw [serSeg, segPulses, List.append_assoc, List.getElem?_map, List.getElem?_append_left hk]

/-- The pairs of the bits follow the header. -/
theorem serSeg_getElem?_bits {k : Nat} (hk : k < 2 * s.bits.length) :
    (serSeg tp s)[(headerPulses s.hdr).length + k]? = ((s.bits.flatMap (bitPulses tp))[k]?).map Pulse.dur := by
  have inBits : k < (s.bits.flatMap (bitPulses tp)).length := by rwa [(bitsPulses_alternates tp s.bits).2]
  rw [serSeg, segPulses, List.append_assoc, List.getElem?_map, List.getElem?_append_right (Nat.le_add_right ..),
    Nat.add_sub_cancel_left, List.getElem?_append_left inBits]

/-- The tail follows the pairs of the bits. -/
theorem serSeg_getElem?_tail (k : Nat) :
    (serSeg tp s)[(headerPulses s.hdr).length + 2 * s.bits.length + k]? = ((tailPulses s.tail)[k]?).map Pulse.dur := by
  rw [← (bitsPulses_alternates tp s.bits).2, ← List.length_append, serSeg, segPulses, List.getElem?_map,
    List.getElem?_append_right (Nat.le_add_right ..), Nat.add_sub_cancel_left]

/-! ### The parity of a sequence (R202) -/

theorem tailPulses_length_odd (t : Trailer) : (tailPulses t).length % 2 = 1 ↔ isMarkTail t = true := by
  cases t <;> simp [tailPulses, isMarkTail]

/-- A segment has an odd number of durations exactly when its tail is a lone mark. -/
theorem serSeg_length_odd : (serSeg tp s).length % 2 = 1 ↔ isMarkTail s.tail = true := by
  have header := (headerPulses_alternates s.hdr).2
  have bits := (bitsPulses_alternates tp s.bits).2
  rw [← tailPulses_length_odd, serSeg, List.length_map, segPulses, List.length_append, List.length_append]
  omega

end

theorem isMarkTail_eq_true (t : Trailer) : isMarkTail t = true ↔ ∃ m, t = .mark m := by
  cases t <;> simp [isMarkTail]

/-- A plan without a lone-mark tail has an even number of durations. -/
theorem ser_length_even (tp : TimingProfile) (p : Plan) (noMark : ∀ s ∈ p, isMarkTail s.tail = false) :
    (ser tp p).length % 2 = 0 := by
  induction p with
  | nil => rfl
  | cons s p ih =>
    obtain ⟨first, rest⟩ := List.forall_mem_cons.1 noMark
    have even := (serSeg_length_odd tp s).not.2 (by simp [first])
    have := ih rest
    rw [ser_cons, List.length_append]
    omega

theorem ser_singleton (tp : TimingProfile) (s : Segment) : ser tp [s] = serSeg tp s := by
  rw [ser_cons]
  exact List.append_nil _

/-- Where lone-mark tails stand on the last segment only, that segment alone decides the parity (R205 c). -/
theorem ser_length_odd (tp : TimingProfile) (p : Plan) (s : Segment) (noMark : ∀ x ∈ p, isMarkTail x.tail = false) :
    (ser tp (p ++ [s])).length % 2 = 1 ↔ ∃ m, s.tail = .mark m := by
  have even := ser_length_even tp p noMark
  rw [← isMarkTail_eq_true, ← serSeg_length_odd tp, ser_append, ser_singleton, List.length_append]
  omega

/-- Settles O56: each part of a segment is read at its own place, and a plan is taken apart at its last segment. -/
theorem serialisedSegmentsAndPlans : Obligations.SerialisedSegmentsAndPlans := by
  refine ⟨fun tp s => ?_, serSeg_length, ser_append, ser_singleton, fun tp p wellFormed => ?_⟩
  · rw [← headerPulses_length]
    refine ⟨fun m g hdr => ?_, fun i hi => ?_, fun m tail => ?_, fun m g tail => ?_⟩
    · have two : (headerPulses s.hdr).length = 2 := by rw [hdr]; rfl
      rw [serSeg_getElem?_header tp s (by omega), serSeg_getElem?_header tp s (by omega), hdr]
      exact ⟨rfl, rfl⟩
    · obtain ⟨mark, space⟩ := bitsPulses_getElem? tp s.bits hi
      rw [Nat.add_assoc, serSeg_getElem?_bits tp s (by omega), serSeg_getElem?_bits tp s (by omega), mark, space]
      exact ⟨rfl, rfl⟩
    · rw [← Nat.add_zero (_ + _), serSeg_getElem?_tail, tail]
      rfl
    · rw [← Nat.add_zero (_ + _), Nat.add_assoc _ 0 1, serSeg_getElem?_tail, serSeg_getElem?_tail, tail]
      exact ⟨rfl, rfl⟩
  · obtain ⟨nonempty, -, noMark⟩ := wellFormed
    obtain ⟨q, s, rfl⟩ := (List.eq_nil_or_concat p).resolve_left nonempty
    rw [List.concat_eq_append] at noMark ⊢
    rw [List.dropLast_concat] at noMark
    rw [ser_length_odd tp q s noMark, List.getLast?_concat]
    simp

/-! ### Split plans (R199) -/

/-- The first segments of a split plan send the bytes up to the count that ends the last of them. -/
theorem planSplit_take_bits (d : Descriptor) (f : List Byte) (splits : splitsOk d.plan.splits f.length) {i : Nat}
    (hi : i < d.plan.splits.length) :
    ((planSplit d f).take (i + 1)).flatMap Segment.bits = bitsOfBytes d.bitOrder (f.take d.plan.splits[i]) := by
  obtain ⟨increasing, inside⟩ := splits
  have bounds : ∀ c ∈ d.plan.splits, 0 ≤ c ∧ c ≤ 0 + f.length := fun c hc =>
    ⟨Nat.zero_le c, by rw [Nat.zero_add]; exact (inside c hc).2.le⟩
  rw [planSplit, splitSegments_take, cutAt_take _ 0 f i hi increasing bounds, Nat.sub_zero]

/-- Settles O58: the shape of a split plan, the bits of its first segments, and the copies of a repeated one. -/
theorem splitAndRepeatedPlans : Obligations.SplitAndRepeatedPlans := by
  refine ⟨fun d f splits => ?_, planRepeat_spec⟩
  obtain ⟨length, bits, ⟨first, later, shape, header, noHeader⟩, dividers, trailer⟩ := planSplit_spec d f
  refine ⟨length, bits, fun i hi => planSplit_take_bits d f splits hi, ?_, ?_, dividers, trailer⟩
  · rw [shape]
    rintro _ ⟨⟩
    exact header
  · rw [shape]
    exact noHeader

/-! ### Alternation of what GENERATE emits (R201) -/

/-- Settles O43: the plan of a builder is in order, so its pulses alternate and none is empty. -/
theorem durationsAlternate : Obligations.DurationsAlternate := by
  intro cmd s fa bound
  have hd := desc_wellFormed theConfig theConfig_wellFormed fa.target
  have plan := builderOf_planOk theConfig theConfig_wellFormed fa.target _ fa.view (normalise_validFor _ hd cmd) rfl
  obtain ⟨-, positive, -, alternate⟩ := plan.ser _ hd.timing
  exact ⟨_, _, exec_generate .., (accepted_generate _ cmd s fa bound).pq, rfl, alternate,
    fun _ hp => positive _ (List.mem_map_of_mem hp)⟩

end Sys2Proof.Machine

/-! The checksum module (spec/42_checksum_tables.md): the byte sums, the reversal of a byte and the inversion of byte pairs
(R221, R222, R227, R228), and the checksum closure of every frame that a builder emits (R225, R335). -/

namespace Sys2Proof.Machine

/-! ### The byte operations (R221, R222, R227, R228) -/

theorem xor8_concat (bs : List Byte) (b : Byte) : xor8 (bs ++ [b]) = xor8 bs ^^^ b := List.foldl_concat ..

/-- Reversal moves bit `i` to `7 - i` and from there back to `i` (R227). -/
@[simp] theorem rev8_rev8 (v : Byte) : rev8 (rev8 v) = v := by
  refine BitVec.eq_of_getLsbD_eq fun i hi => ?_
  have twice : 7 - (7 - i) = i := by omega
  rw [rev8_getLsbD _ i hi, rev8_getLsbD v (7 - i) (by omega), twice]

/-- Settles O57. -/
theorem byteArithmetic : Obligations.ByteArithmetic :=
  ⟨sum8_toNat, xor8_concat, rfl, fun v => ⟨rev8_rev8 v, rev8_getLsbD v⟩, invertPairs_getD, invertPairs_length⟩

/-! ### What closure says, by kind (R225) -/

theorem closed_iff_of_sum8 {d : Descriptor} (kind : d.checksumKind = .sum8) (f : List Byte) :
    closed d f ↔ f.getLast? = some (sum8 (body f)) := by
  rw [closed, kind]

theorem closed_iff_of_xor8 {d : Descriptor} (kind : d.checksumKind = .xor8) (f : List Byte) :
    closed d f ↔ f.getLast? = some (xor8 (body f)) := by
  rw [closed, kind]

/-- `closed` leaves the closure of a custom checksum to its brand (R226). -/
theorem closed_of_custom {d : Descriptor} (kind : d.checksumKind = .custom) (f : List Byte) : closed d f := by
  rw [closed, kind]
  trivial

/-- Clearing nibble 0, where LG's checksum stands, leaves the nibble sum as it is (R223). -/
theorem nibsum_clear_nibble0 (w : Word) : nibsum (w &&& ~~~0xF) = nibsum w := by
  refine nibsum_congr _ _ fun k h1 h8 => ?_
  have kept : (~~~0xF#32).extractLsb' (4 * k) 4 = BitVec.allOnes 4 := by interval_cases k <;> rfl
  rw [BitVec.extractLsb'_and]
  exact (congrArg _ kept).trans BitVec.and_allOnes

/-- Closure of a frame of either form: a byte frame by its trailing checksum, a word by its nibble sum (R225, R335). -/
def frameClosed (d : Descriptor) : Frame → Prop
  | .bytes bs => closed d bs
  | .word _ w => d.checksumKind = .nibbleSum → nibble w 0 = nibsum (w &&& ~~~0xF)

theorem framesClosed_bytes {d : Descriptor} {fs : List (List Byte)} (h : ∀ bs ∈ fs, closed d bs) :
    ∀ f ∈ fs.map Frame.bytes, frameClosed d f :=
  List.forall_mem_map.2 h

theorem framesClosed_one {d : Descriptor} {bs : List Byte} (h : closed d bs) : ∀ f ∈ [Frame.bytes bs], frameClosed d f :=
  List.forall_mem_singleton.2 h

/-! ### Closure of what the builders emit (R225, R335) -/

/-- Whatever a brand rule does to the bytes of its control function without changing their number, the checksum step that
comes last closes the frame (R225, R260). -/
theorem closed_finish_of_contract {d : Descriptor} {len : Nat} {fixed : NormCmd → List (Nat × Byte)}
    {ctrl : NormCmd → PsView → List Byte} (contract : CtrlContract d len fixed ctrl) (pos : 4 ≤ len) {n : NormCmd}
    (valid : n.ValidFor d) (v : PsView) {f : List Byte} (length : f.length = (ctrl n v).length) :
    closed d (finish d f) :=
  closed_finish d f (ne_nil_of_length f len (length.trans (contract.length n v valid)) pos)

theorem putTclTemp_length (n : NormCmd) (f : List Byte) : (putTclTemp n f).length = f.length := by
  simp [putTclTemp]

theorem putField_length (f : List Byte) (p : FieldPos) (val : Byte) : (putField f p val).length = f.length :=
  put_length ..

/-- Coolix's toggle frame is a closed constant, and its normal frame is finished (R352, R354). -/
theorem coolixFrame_closed {c : Configuration} (rules : c.coolix.Rules) {n : NormCmd} (hn : n.ValidFor c.coolix.base)
    (v : PsView) : closed c.coolix.base (coolixFrame c n v) := by
  unfold coolixFrame
  split
  · exact closed_finish_of_contract rules.ctrl (oneByteFrame_len _ rules.desc).1 hn v (putTemp_length ..)
  · exact rules.swingClosed

/-- The frames of RAS_2819T's toggle message are closed constants, and its two packets are finished (R372, R373). -/
theorem ras2819tFrames_closed {c : Configuration} (rules : c.ras2819t.Rules) {n : NormCmd}
    (hn : n.ValidFor c.ras2819t.base) (v : PsView) : ∀ bs ∈ ras2819tFrames c n v, closed c.ras2819t.base bs := by
  have long := (frameLen_range _ rules.base 0 (by rw [rules.two]; decide)).1
  unfold ras2819tFrames
  split
  · exact List.forall_mem_cons.2 ⟨closed_finish_of_contract rules.ctrl0 long hn v rfl,
      List.forall_mem_singleton.2 (closed_finish_of_contract rules.ctrl1 long hn v rfl)⟩
  · exact rules.toggleClosed

theorem racPtBlocks_closed {c : Configuration} (rules : c.racPt.Rules) {n : NormCmd} (hn : n.ValidFor c.racPt.base)
    (v : PsView) : ∀ bs ∈ [racPtMain c n v, racPtSwing c n v], closed c.racPt.base bs := by
  have long : ∀ k < racPtBlocks, 4 ≤ c.racPt.base.frameLen k := fun k hk =>
    (frameLen_range _ rules.base k (rules.two ▸ hk)).1
  exact List.forall_mem_cons.2 ⟨closed_finish_of_contract rules.main (long 0 (by decide)) hn v (putTemp_length ..),
    List.forall_mem_singleton.2 (closed_finish_of_contract rules.swing (long 1 (by decide)) hn v rfl)⟩

theorem daikinBlocks_closed {c : Configuration} (rules : c.daikin.Rules) {n : NormCmd} (hn : n.ValidFor c.daikin.base)
    (v : PsView) : ∀ bs ∈ daikinBlocks c n v, closed c.daikin.base bs := by
  have long : ∀ k < daikinBlockCount, 4 ≤ c.daikin.base.frameLen k := fun k hk =>
    (frameLen_range _ rules.base k (rules.three ▸ hk)).1
  exact List.forall_mem_cons.2 ⟨closed_finish_of_contract rules.block0 (long 0 (by decide)) hn v rfl,
    List.forall_mem_cons.2 ⟨closed_finish_of_contract rules.block1 (long 1 (by decide)) hn v rfl,
      List.forall_mem_singleton.2 (closed_finish_of_contract rules.block2 (long 2 (by decide)) hn v rfl)⟩⟩

/-- Every frame that a builder makes is closed (R225, R335). -/
theorem builderOf_framesClosed (c : Configuration) (hc : c.WellFormed) (t : Target) (n : NormCmd) (v : PsView)
    (hn : n.ValidFor (c.desc t)) : ∀ f ∈ (builderOf c t n v).frames, frameClosed (c.desc t) f := by
  have long {d : Descriptor} (h : d.OneByteFrame) := (oneByteFrame_len d h).1
  cases t
  case lg =>
    refine List.forall_mem_singleton.2 fun _ => ?_
    rw [nibsum_clear_nibble0]
    exact (lgFinal_spec c hc n hn v).2.1
  case whynter => exact List.forall_mem_singleton.2 fun kind => absurd (hc.whynter.kind.symm.trans kind) (by decide)
  case yashima =>
    exact framesClosed_one (closed_finish_of_contract hc.yashima.ctrl (by decide) hn v (putTemp_length ..))
  case ballu => exact framesClosed_one (closed_finish_of_contract hc.ballu.ctrl (by decide) hn v List.length_set)
  case tcl =>
    refine framesClosed_one (closed_finish_of_contract hc.tcl.ctrl (long hc.tcl.desc) hn v ?_)
    split
    · exact putTclTemp_length ..
    · rfl
  case mitsubishi =>
    exact framesClosed_one (closed_finish_of_contract hc.mitsubishi.ctrl (long hc.mitsubishi.desc) hn v rfl)
  case midea => exact framesClosed_one (closed_finish_of_contract hc.midea.ctrl (long hc.midea.desc) hn v rfl)
  case gree m => exact framesClosed_one (closed_of_custom (hc.gree m).kind _)
  case fujitsu => exact framesClosed_one (closed_finish_of_contract hc.fujitsu.ctrl (long hc.fujitsu.desc) hn v rfl)
  case nec => exact framesClosed_one (closed_finish_of_contract hc.nec.ctrl (long hc.nec.desc) hn v rfl)
  case coolix => exact framesClosed_one (coolixFrame_closed hc.coolix hn v)
  case whirlpool =>
    refine framesClosed_one (closed_finish_of_contract hc.whirlpool.ctrl (long hc.whirlpool.desc) hn v ?_)
    split
    · rfl
    · exact putField_length ..
  case toshibaGeneric =>
    exact framesClosed_one (closed_finish_of_contract hc.toshibaGeneric.ctrl (long hc.toshibaGeneric.desc) hn v rfl)
  case toshibaRas2819t => exact framesClosed_bytes (ras2819tFrames_closed hc.ras2819t hn v)
  case toshibaRacPt1411hwru => exact framesClosed_bytes (racPtBlocks_closed hc.racPt hn v)
  case daikin => exact framesClosed_bytes (daikinBlocks_closed hc.daikin hn v)
  case hitachi =>
    exact framesClosed_one
      (closed_finish_of_contract hc.hitachi.ctrl (long hc.hitachi.desc) hn v (invertPairs_length ..))

/-- Settles O44: every emitted frame is closed, which reads off at the last byte or, for LG, at nibble 0. -/
theorem emittedFramesAreClosed : Obligations.EmittedFramesAreClosed := by
  intro c tgt n v hc hn f hf
  have emitted := builderOf_framesClosed c hc tgt n v hn f hf
  cases f with
  | bytes bs =>
    exact ⟨fun kind => ⟨_, (closed_iff_of_sum8 kind bs).1 emitted, sum8_toNat _⟩,
      fun kind => ⟨_, (closed_iff_of_xor8 kind bs).1 emitted, rfl⟩⟩
  | word _ w =>
    rintro rfl
    exact emitted hc.lg.kind

end Sys2Proof.Machine

/-! The flat-word family (spec/44_brands_flat_word.md): the words that LG and Whynter emit, field by field and bit by bit, and
Yashima's frame. -/

namespace Sys2Proof.Machine

/-! ### LG (R270 to R272) -/

/-- The bits of a range of nibbles are those of its nibbles. -/
theorem extractLsb'_congr_of_nibbles {m n : Nat} {w : BitVec m} {v : BitVec n} (first count : Nat)
    (same : ∀ k, first ≤ k → k < first + count → w.extractLsb' (4 * k) 4 = v.extractLsb' (4 * k) 4) :
    w.extractLsb' (4 * first) (4 * count) = v.extractLsb' (4 * first) (4 * count) := by
  refine BitVec.eq_of_getLsbD_eq fun i hi => ?_
  have inNibble : i % 4 < 4 := Nat.mod_lt i (by decide)
  have place : 4 * (first + i / 4) + i % 4 = 4 * first + i := by omega
  have bit := congrArg (BitVec.getLsbD · (i % 4)) (same (first + i / 4) (by omega) (by omega))
  simp only [BitVec.getLsbD_extractLsb', inNibble, hi, decide_true, Bool.true_and] at bit ⊢
  rwa [place] at bit

/-- The word LG emits: its checksum in the empty nibble 0 (R223, R270). -/
def lgEmitted (c : Configuration) (n : NormCmd) (v : PsView) : Word :=
  lgWord c n v ||| (nibsum (lgWord c n v)).setWidth 32

theorem buildLg_plan (c : Configuration) (n : NormCmd) (v : PsView) :
    (buildLg c n v).plan = planSingle c.lg.base (.word 28 (lgEmitted c n v)) := rfl

section
variable {c : Configuration} (hc : c.WellFormed) {n : NormCmd} (hn : n.ValidFor c.lg.base) (v : PsView)
include hc hn

/-- Bits 11:8: the whole degrees above 15 in the modes that carry the temperature (R270). -/
theorem lgEmitted_temp : if c.lg.base.tempModes n.mode then
      (((lgEmitted c n v).extractLsb' 8 4).toNat : Int) = n.temp / 2 - 15
    else (lgEmitted c n v).extractLsb' 8 4 = (c.lg.ctrl n v).extractLsb' 8 4 :=
  (lgFinal_spec c hc n hn v).1

/-- Bits 3:0: the nibble sum (R223, R270). -/
theorem lgEmitted_sum : (lgEmitted c n v).extractLsb' 0 4 = nibsum (lgEmitted c n v) :=
  (lgFinal_spec c hc n hn v).2.1

/-- The other nibbles are the control word's (R270). -/
theorem lgEmitted_rest {k : Nat} (inWord : k < 8) (notSum : k ≠ 0) (notTemp : k ≠ 2) :
    (lgEmitted c n v).extractLsb' (4 * k) 4 = (c.lg.ctrl n v).extractLsb' (4 * k) 4 :=
  (lgFinal_spec c hc n hn v).2.2 k inWord notSum notTemp

/-- The four bits of the container that are not sent are 0: the control word ends below them (R271). -/
theorem lgEmitted_unsent : (lgEmitted c n v).extractLsb' 28 4 = 0 := by
  have past : (c.lg.ctrl n v).extractLsb' 28 4 = 0 :=
    BitVec.eq_of_getLsbD_eq fun i hi => by simp [BitVec.getLsbD_of_ge]
  exact (lgEmitted_rest hc hn v (k := 7) (by decide) (by decide) (by decide)).trans past

end

/-- Settles O24: the word nibble by nibble, the nibbles 3 to 6 together as bits 27:12. -/
theorem generateLg : Obligations.GenerateLg := by
  rintro cmd s ps fa rfl bound b n ctrl
  have hc := theConfig_wellFormed
  have hn : n.ValidFor theConfig.lg.base := normalise_validFor _ hc.lg.base cmd
  have sum := congrArg BitVec.toNat (lgEmitted_sum hc hn (Facade.view ⟨.lg, ps⟩))
  have accepted := accepted_generate (buildLg theConfig) cmd s _ bound
  rw [buildLg_plan] at accepted
  exact ⟨_, lgEmitted theConfig n _, rfl, accepted, lgEmitted_temp hc hn _, sum.trans (nibsum_toNat _),
    lgEmitted_rest hc hn _ (k := 1) (by decide) (by decide) (by decide),
    extractLsb'_congr_of_nibbles 3 4 fun k _ _ => lgEmitted_rest hc hn _ (by omega) (by omega) (by omega),
    lgEmitted_unsent hc hn _⟩

/-- The normalised command of scenario 1: Cool, 24 degrees, High, Off (spec/95_test_vectors.md section 1). -/
def lgScenarioCmd : NormCmd := ⟨.cool, 48, .high, .off⟩

/-- Settles O50: the operands are those of a normalised command, so they normalise to it, and its word on fresh state is read
nibble by nibble; the top nibble is P-LG-1's (R272). -/
theorem lgScenarioOne : Obligations.LgScenarioOne := by
  intro c s hc cool high low top bound
  have hn : lgScenarioCmd.ValidFor c.lg.base := ⟨cool, high, hc.lg.base.swingOff, low, top, fun _ => rfl⟩
  obtain ⟨-, tempMax_le⟩ := lg_range _ hc.lg
  have norm : normalise c.lg.base ⟨2, 3, 0, 48⟩ = lgScenarioCmd :=
    normalise_operandsOf _ hc.lg.base hn (by omega)
  have carries : c.lg.base.tempModes lgScenarioCmd.mode = true := hc.lg.coolTemp cool
  have temp := lgEmitted_temp hc hn (freshView 0)
  rw [if_pos carries] at temp
  refine ⟨lgEmitted c lgScenarioCmd (freshView 0), ?_, lgEmitted_unsent hc hn _,
    (lgEmitted_rest hc hn _ (k := 6) (by decide) (by decide) (by decide)).trans hc.lg.pLg1,
    BitVec.eq_of_toNat_eq (Int.ofNat_inj.1 temp), ?_⟩
  · rw [generate_bound _ _ _ _ _ bound, ← buildLg_plan, ← norm]
    rfl
  · rw [nibsum_clear_nibble0]
    exact lgEmitted_sum hc hn _

/-! ### Whynter (R275) -/

/-- A byte above the lowest one. -/
theorem extractLsb'_append_byte {m : Nat} (high : BitVec m) (low : Byte) (k : Nat) :
    (high ++ low).extractLsb' (8 * (k + 1)) 8 = high.extractLsb' (8 * k) 8 :=
  BitVec.extractLsb'_append_eq_of_le (Nat.le_add_left 8 (8 * k))

/-- Each byte of the word is reversed in its place (R275). -/
theorem revBytes_byte (w : Word) : ∀ k < 4, (revBytes w).extractLsb' (8 * k) 8 = rev8 (w.extractLsb' (8 * k) 8)
  | 0, _ => BitVec.extractLsb'_append_eq_right
  | 1, _ => (extractLsb'_append_byte _ _ 0).trans BitVec.extractLsb'_append_eq_right
  | 2, _ => (extractLsb'_append_byte _ _ 1).trans <| (extractLsb'_append_byte _ _ 0).trans
      BitVec.extractLsb'_append_eq_right
  | 3, _ => (extractLsb'_append_byte _ _ 2).trans <| (extractLsb'_append_byte _ _ 1).trans
      BitVec.extractLsb'_append_eq_left

/-- Bit `i` of a byte of the word is bit `7 - i` of the same byte before (R227, R275). -/
theorem revBytes_getLsbD (w : Word) {k i : Nat} (hk : k < 4) (hi : i < 8) :
    (revBytes w).getLsbD (8 * k + i) = w.getLsbD (8 * k + (7 - i)) := by
  have mirrored : 7 - i < 8 := by omega
  have byte := congrArg (BitVec.getLsbD · i) (revBytes_byte w k hk)
  simpa only [BitVec.getLsbD_extractLsb', rev8_getLsbD _ i hi, hi, mirrored, decide_true, Bool.true_and] using byte

/-- Settles O25. -/
theorem generateWhynter : Obligations.GenerateWhynter := by
  rintro cmd s ps fa rfl bound b n ctrl
  exact ⟨_, revBytes ctrl, rfl, accepted_generate (buildWhynter theConfig) cmd s _ bound, fun _ _ => revBytes_getLsbD ctrl⟩

/-! ### Yashima (R280) -/

/-- Settles O26: the table entry is put into the control function's frame, and the checksum step comes last. -/
theorem generateYashima : Obligations.GenerateYashima := by
  rintro cmd s ps fa rfl bound b p n ctrl
  obtain ⟨desc, -, -, table, contract⟩ := theConfig_wellFormed.yashima
  have hn : n.ValidFor b := normalise_validFor _ desc.base cmd
  have length : ctrl.length = yashimaFrameLen := contract.length n _ hn
  have same : (putTemp b theConfig.yashima.table n ctrl).length = ctrl.length := putTemp_length ..
  exact ⟨_, putTemp b theConfig.yashima.table n ctrl, yashimaFrame theConfig n _, rfl,
    accepted_generate (buildYashima theConfig) cmd s _ bound, rfl,
    (finish_length _ desc.base _).trans (same.trans length), closed_finish_of_contract contract (by decide) hn _ same,
    putTemp_spec _ _ _ table desc.base n hn ctrl length⟩

end Sys2Proof.Machine

/-! The byte-array family (spec/45_brands_byte_array.md): what the checksum step leaves of a frame of the control function, and
from it the frames of Ballu, TCL, Mitsubishi, Midea, Gree, Fujitsu and NEC. -/

namespace Sys2Proof.Machine

/-! ### The checksum step on one frame (R224, R225, R237) -/

theorem finish_of_none {d : Descriptor} (kind : d.checksumKind = .none) (f : List Byte) : finish d f = f := by
  rw [finish, kind]

theorem finish_of_custom {d : Descriptor} (kind : d.checksumKind = .custom) (f : List Byte) : finish d f = d.finish f := by
  rw [finish, kind]

/-- The kinds of R220 that are left once the others are ruled out. -/
theorem trailingKind_of_ne {k : ChecksumKind} (notNone : k ≠ .none) (notCustom : k ≠ .custom) (notNibble : k ≠ .nibbleSum) :
    trailingKind k := by
  cases k with
  | none => exact absurd rfl notNone
  | sum8 => exact .inl rfl
  | xor8 => exact .inr rfl
  | nibbleSum => exact absurd rfl notNibble
  | custom => exact absurd rfl notCustom

/-- A trailing checksum leaves every byte before the last as it is (R224). -/
theorem finish_getElem?_of_before_last {d : Descriptor} (kind : trailingKind d.checksumKind) {f : List Byte} {i : Nat}
    (before : i + 1 < f.length) : (finish d f)[i]? = f[i]? := by
  have notLast : f.length - 1 ≠ i := by omega
  rcases kind with kind | kind <;> rw [finish, kind] <;> exact List.getElem?_set_ne notLast

section
variable {d : Descriptor} (desc : d.OneByteFrame) {f : List Byte} (length : f.length = d.frameLen 0)
include desc length

/-- The checksum step keeps the frame length of the brand and closes the frame (R225, R237). -/
theorem finish_length_closed : (finish d f).length = d.frameLen 0 ∧ closed d (finish d f) :=
  ⟨(finish_length d desc.base f).trans length, closed_finish d f (ne_nil_of_length f _ length (oneByteFrame_len d desc).1)⟩

/-- A trailing checksum moreover leaves the body of the frame (R224). -/
theorem finish_trailing (kind : trailingKind d.checksumKind) :
    (finish d f).dropLast = f.dropLast ∧ (finish d f).length = d.frameLen 0 ∧ closed d (finish d f) :=
  ⟨finish_dropLast d f (ne_nil_of_length f _ length (oneByteFrame_len d desc).1) kind, finish_length_closed desc length⟩

end

/-- The last byte of a closed `Sum8` frame is the sum of the bytes before it (R221, R224). -/
theorem getElem?_last_of_closed {d : Descriptor} (kind : d.checksumKind = .sum8) {f : List Byte} {k : Nat}
    (length : f.length = k + 1) (isClosed : closed d f) : f[k]? = some (sum8 (f.take k)) := by
  have last := (closed_iff_of_sum8 kind f).1 isClosed
  rwa [body, List.dropLast_eq_take, List.getLast?_eq_getElem?, length, Nat.add_sub_cancel] at last

/-! ### Ballu (R300) -/

/-- Settles O27: below its last byte the frame is the control function's with the header byte set, and the last byte is what
the closure of a `Sum8` frame says. -/
theorem generateBallu : Obligations.GenerateBallu := by
  rintro cmd s ps fa rfl bound b n ctrl
  obtain ⟨desc, len, kind, contract⟩ := theConfig_wellFormed.ballu
  have hn : n.ValidFor b := normalise_validFor _ desc.base cmd
  have ctrlLength : ctrl.length = 13 := contract.length n _ hn
  have setLength : (ctrl.set 0 balluHdr0).length = 13 := List.length_set.trans ctrlLength
  obtain ⟨lengthKept, isClosed⟩ := finish_length_closed desc (setLength.trans len.symm)
  have frameLength : (balluFrame theConfig n _).length = 13 := lengthKept.trans len
  have kept {i : Nat} (hi : i < 12) : (balluFrame theConfig n _)[i]? = (ctrl.set 0 balluHdr0)[i]? :=
    finish_getElem?_of_before_last (.inl kind) (f := ctrl.set 0 balluHdr0) (by omega)
  refine ⟨_, balluFrame theConfig n _, rfl, accepted_generate (buildBallu theConfig) cmd s _ bound, frameLength, ?_, ?_,
    _, getElem?_last_of_closed kind frameLength isClosed, sum8_toNat _⟩
  · exact (kept (by decide)).trans (List.getElem?_set_self (by omega))
  · intro i notHeader notLast
    exact (kept notLast).trans (List.getElem?_set_ne (by omega))

/-! ### TCL (R305) -/

/-- The number that a 4-bit field holds (R232). -/
theorem byteOf_and_nibble {t : Int} (nonneg : 0 ≤ t) (fits : t < 16) : ((byteOf t &&& 0x0F).toNat : Int) = t := by
  rw [byteOf, BitVec.toNat_and, BitVec.toNat_ofInt]
  interval_cases t <;> rfl

/-- The half-degree flag in its place (R11, R305). -/
theorem byteOf_half_shifted (t : Int) : (byteOf (half t) &&& 1) <<< tclHalfShift = if t % 2 = 1 then 0x20 else 0 := by
  rw [half]
  rcases Int.emod_two_eq_zero_or_one t with even | odd
  · rw [even]; rfl
  · rw [odd]; rfl

/-- TCL's temperature step writes its two fields and nothing else (R305). -/
theorem agreesOutside_putTclTemp (n : NormCmd) (f : List Byte) :
    agreesOutside [(7, 0x0F), (12, 0x20)] f (putTclTemp n f) := by
  have places : [(7, (0x0F : Byte)), (12, 0x20)] =
      [(tclTempByte, tclTempMask <<< 0)] ++ [(tclHalfByte, 1#8 <<< tclHalfShift)] := rfl
  rw [places]
  exact agreesOutside_trans (agreesOutside_put ..) (agreesOutside_put ..)

/-- Byte 7 bits 3:0: the degrees below 31 (R305). -/
theorem putTclTemp_degrees {n : NormCmd} (low : 32 ≤ n.temp) (high : n.temp ≤ 62) {f : List Byte} (long : 7 < f.length) :
    (((putTclTemp n f).getD 7 0 &&& 0x0F).toNat : Int) = 31 - n.temp / 2 := by
  have field : (putTclTemp n f).getD 7 0 &&& 0x0F = byteOf (31 - n.temp / 2) &&& 0x0F := by
    rw [putTclTemp, put_getD, if_neg (fun h => absurd h.1 (by decide)), put_getD, if_pos ⟨rfl, long⟩]
    exact (putByte_field _ 0 tclTempMask _).trans (BitVec.shiftLeft_zero _)
  rw [field]
  exact byteOf_and_nibble (by omega) (by omega)

/-- Byte 12 bit 5: the half degree (R305). -/
theorem putTclTemp_half (n : NormCmd) {f : List Byte} (long : 12 < f.length) :
    (putTclTemp n f).getD 12 0 &&& 0x20 = if n.temp % 2 = 1 then 0x20 else 0 := by
  rw [putTclTemp, put_getD, if_pos ⟨rfl, long.trans_eq (put_length ..).symm⟩]
  exact (putByte_field _ tclHalfShift 1 _).trans (byteOf_half_shifted n.temp)

/-- TCL's frame before the checksum step (R305, R259 f). -/
def tclUnsummed (c : Configuration) (n : NormCmd) (v : PsView) : List Byte :=
  if c.tcl.base.tempModes n.mode then putTclTemp n (c.tcl.ctrl n v) else c.tcl.ctrl n v

theorem tclFrame_eq (c : Configuration) (n : NormCmd) (v : PsView) :
    tclFrame c n v = finish c.tcl.base (tclUnsummed c n v) := rfl

section
variable {c : Configuration} (rules : c.tcl.TclRules) {n : NormCmd} (hn : n.ValidFor c.tcl.base) (v : PsView)
include rules hn

theorem tclUnsummed_length : (tclUnsummed c n v).length = c.tcl.base.frameLen 0 := by
  have ctrlLength := rules.ctrl.length n v hn
  unfold tclUnsummed
  split
  · exact (putTclTemp_length ..).trans ctrlLength
  · exact ctrlLength

/-- A frame has 14 bytes or more, so both temperature bytes stand before the checksum, which leaves them (R305, R306). -/
theorem tclFrame_getD {i : Nat} (beforeLast : i < 13) : (tclFrame c n v).getD i 0 = (tclUnsummed c n v).getD i 0 := by
  have long : 14 ≤ (tclUnsummed c n v).length := rules.len.trans_eq (tclUnsummed_length rules hn v).symm
  rw [tclFrame_eq, List.getD_eq_getElem?_getD, finish_getElem?_of_before_last rules.kind (by omega),
    ← List.getD_eq_getElem?_getD]

/-- What the frame holds before the checksum step: the two fields in the modes that carry the temperature (R305). -/
theorem tclUnsummed_spec :
    if c.tcl.base.tempModes n.mode then
      agreesOutside [(7, 0x0F), (12, 0x20)] (c.tcl.ctrl n v) (tclUnsummed c n v) ∧
      (((tclUnsummed c n v).getD 7 0 &&& 0x0F).toNat : Int) = 31 - n.temp / 2 ∧
      (tclUnsummed c n v).getD 12 0 &&& 0x20 = if n.temp % 2 = 1 then 0x20 else 0
    else tclUnsummed c n v = c.tcl.ctrl n v := by
  obtain ⟨low, high⟩ := tcl_range _ rules
  have long : 14 ≤ (c.tcl.ctrl n v).length := rules.len.trans_eq (rules.ctrl.length n v hn).symm
  unfold tclUnsummed
  split
  · exact ⟨agreesOutside_putTclTemp n _, putTclTemp_degrees (low.trans hn.low) (hn.high.trans_eq high) (by omega),
      putTclTemp_half n (by omega)⟩
  · rfl

end

/-- Settles O28: the two fields stand in the frame before the checksum step, which leaves them as they were written. -/
theorem generateTcl : Obligations.GenerateTcl := by
  rintro cmd s ps fa rfl bound b n ctrl
  have rules := theConfig_wellFormed.tcl
  have hn : n.ValidFor b := normalise_validFor _ rules.desc.base cmd
  obtain ⟨frameLength, isClosed⟩ := finish_length_closed rules.desc (tclUnsummed_length rules hn (Facade.view ⟨.tcl, ps⟩))
  refine ⟨_, tclUnsummed theConfig n _, tclFrame theConfig n _, rfl, accepted_generate (buildTcl theConfig) cmd s _ bound, rfl,
    rules.len.trans_eq frameLength.symm, isClosed, ?_⟩
  rw [tclFrame_getD rules hn _ (by decide), tclFrame_getD rules hn _ (by decide)]
  exact tclUnsummed_spec rules hn _

/-! ### Mitsubishi and Midea (R310, R315) -/

/-- Settles O29. -/
theorem generateMitsubishi : Obligations.GenerateMitsubishi := by
  rintro cmd s ps fa rfl bound b n
  obtain ⟨desc, kind, -, contract⟩ := theConfig_wellFormed.mitsubishi
  have hn : n.ValidFor b := normalise_validFor _ desc.base cmd
  exact ⟨_, mitsubishiFrame theConfig n _, rfl, accepted_generate (buildMitsubishi theConfig) cmd s _ bound,
    finish_trailing desc (contract.length n _ hn) kind⟩

/-- Settles O30. -/
theorem generateMidea : Obligations.GenerateMidea := by
  rintro cmd s ps fa rfl bound b n
  obtain ⟨desc, kind, -, contract⟩ := theConfig_wellFormed.midea
  have hn : n.ValidFor b := normalise_validFor _ desc.base cmd
  exact ⟨_, mideaFrame theConfig n _, rfl, accepted_generate (buildMidea theConfig) cmd s _ bound,
    finish_trailing desc (contract.length n _ hn) kind⟩

/-! ### Gree (R320, R321) -/

/-- The plan is that of the model which the view's variant selects (R320). -/
theorem buildGree_plan (c : Configuration) (m : Fin 7) (n : NormCmd) {v : PsView}
    (variant : v.modelVariant = (Target.gree m).variant) :
    (buildGree c n v).plan = greePlan (c.gree m) (greeFrame (c.gree m) n v) := by
  simp only [buildGree, greeModel_eq c m v variant]

/-- The default of R321. -/
theorem greePlan_single {g : GreeModel} (emission : g.emission = .single) (copies : g.base.plan.copies = 1) (f : List Byte) :
    greePlan g f = planSingle g.base (.bytes f) := by
  rw [greePlan, emission, copies, planRepeat]

/-- Storing the checksum is Gree's checksum step, so it keeps the frame length (R226, R237, R320). -/
theorem greeFrame_length {g : GreeModel} (rules : g.Rules) {n : NormCmd} (hn : n.ValidFor g.base) (v : PsView) :
    (greeFrame g n v).length = g.base.frameLen 0 := by
  rw [greeFrame, ← rules.finish, rules.desc.base.finishLength]
  exact rules.ctrl.length n v hn

/-- Settles O31: the view of the binding carries its variant, which selects the model. -/
theorem generateGree : Obligations.GenerateGree := by
  rintro cmd s model ps fa rfl bound g b n f0
  have rules := theConfig_wellFormed.gree model
  have hn : n.ValidFor b := normalise_validFor _ rules.desc.base cmd
  have accepted := accepted_generate (buildGree theConfig) cmd s _ bound
  rw [buildGree_plan theConfig model _ rfl] at accepted
  exact ⟨_, greeFrame g n _, _, rfl, accepted, rfl, greeFrame_length rules hn _, rules.closure n _ hn _ rfl, rfl,
    fun emission copies => greePlan_single emission copies _⟩

/-! ### Fujitsu and NEC (R325, R330) -/

/-- Settles O32, by the configured kind; a byte-array brand has no nibble sum (R237). -/
theorem generateFujitsu : Obligations.GenerateFujitsu := by
  rintro cmd s ps fa rfl bound b n ctrl
  obtain ⟨desc, notNibble, -, -, contract⟩ := theConfig_wellFormed.fujitsu
  have hn : n.ValidFor b := normalise_validFor _ desc.base cmd
  have length : ctrl.length = b.frameLen 0 := contract.length n _ hn
  refine ⟨_, fujitsuFrame theConfig n _, rfl, accepted_generate (buildFujitsu theConfig) cmd s _ bound,
    (finish_length_closed desc length).1, ?_⟩
  split
  next kind => exact finish_of_none kind _
  next kind => exact finish_of_custom kind _
  next notNone notCustom =>
    obtain ⟨body, -, isClosed⟩ := finish_trailing desc length (trailingKind_of_ne notNone notCustom notNibble)
    exact ⟨body, isClosed⟩

/-- Settles O33. -/
theorem generateNec : Obligations.GenerateNec := by
  rintro cmd s ps fa rfl bound b n
  obtain ⟨desc, -, -, -, contract⟩ := theConfig_wellFormed.nec
  have hn : n.ValidFor b := normalise_validFor _ desc.base cmd
  exact ⟨_, necFrame theConfig n _, rfl, accepted_generate (buildNec theConfig) cmd s _ bound, rfl,
    finish_length_closed desc (contract.length n _ hn)⟩

end Sys2Proof.Machine

/-! The stateful-toggle and multi-packet family (spec/46_brands_toggle_multipacket.md): what a GENERATE leaves for the next one
to be decided on, and from it the frames of Coolix, Whirlpool, the three Toshiba variants, Daikin and Hitachi. -/

namespace Sys2Proof.Machine

/-! ### What every frame and every GENERATE of the family has (R153, R225, R237) -/

/-- A frame of a control function leaves the checksum step with its brand's length, and closed (R225, R237). -/
theorem finish_length_closed_of_contract {d : Descriptor} (hd : d.WellFormed) {k : Nat} (inFrames : k < d.nFrames)
    {fixed : NormCmd → List (Nat × Byte)} {ctrl : NormCmd → PsView → List Byte}
    (contract : CtrlContract d (d.frameLen k) fixed ctrl) {n : NormCmd} (valid : n.ValidFor d) (v : PsView)
    {f : List Byte} (length : f.length = (ctrl n v).length) :
    (finish d f).length = d.frameLen k ∧ closed d (finish d f) :=
  ⟨(finish_length d hd f).trans (length.trans (contract.length n v valid)),
    closed_finish_of_contract contract (frameLen_range d hd k inFrames).1 valid v length⟩

/-- A GENERATE leaves the binding, and records the wanted swing and power as the assumed ones (R153). -/
theorem generate_records (c : Configuration) (b : Builder) (cmd : ClimateCommand) {s : State} {tgt : Target}
    {ps : ProtocolState} (bound : s.facade = some ⟨tgt, ps⟩) :
    ∃ p : ProtocolState, (generate c b cmd s).facade = some ⟨tgt, p⟩ ∧
      p.assumedSwingOn = wantSwing (normalise (c.desc tgt) cmd) ∧
      p.assumedPowerOn = poweredOn (normalise (c.desc tgt) cmd) :=
  ⟨.update (c.desc tgt) (normalise (c.desc tgt) cmd) (Facade.view ⟨tgt, ps⟩),
    by rw [generate_bound c b cmd s _ bound], rfl, rfl⟩

/-- The view right after RESOLVE (R35, R154). -/
theorem view_fresh (tgt : Target) : Facade.view ⟨tgt, .fresh⟩ = freshView tgt.variant := rfl

/-- A supported swing setting is wanted as its operand says (R150, R255). -/
theorem wantSwing_normalise {d : Descriptor} {cmd : ClimateCommand} {w : SwingSetting}
    (supported : d.supportedSwings w = true) (operand : cmd.swing = w.code) :
    wantSwing (normalise d cmd) = decide (w ≠ .off) := by
  rw [wantSwing, normalise, operand, normSwing_code d supported]

/-- The mode operand Off normalises to Off, which every brand supports (R148, R255). -/
theorem poweredOn_normalise_off {d : Descriptor} (hd : d.WellFormed) {cmd : ClimateCommand} (operand : cmd.mode = 0) :
    poweredOn (normalise d cmd) = false := by
  have mode : normMode d 0 = .off := normMode_code d hd.modeOff
  rw [poweredOn, normalise, operand, mode]
  rfl

theorem poweredOn_ne_false {n : NormCmd} : poweredOn n ≠ false ↔ n.mode ≠ .off := by
  simp [poweredOn]

/-! ### Coolix (R350 to R355) -/

section
variable {c : Configuration} {n : NormCmd} {v : PsView}

theorem coolixFrame_of_ne (differs : wantSwing n ≠ v.assumedSwingOn) : coolixFrame c n v = c.coolix.swingFrame :=
  if_neg differs

theorem coolixFrame_of_eq (same : wantSwing n = v.assumedSwingOn) : coolixFrame c n v = coolixNormal c n v :=
  if_pos same

theorem coolixFrame_length (rules : c.coolix.Rules) (hn : n.ValidFor c.coolix.base) :
    (coolixFrame c n v).length = c.coolix.base.frameLen 0 := by
  by_cases same : wantSwing n = v.assumedSwingOn
  · rw [coolixFrame_of_eq same, coolixNormal, finish_length _ rules.desc.base, putTemp_length]
    exact rules.ctrl.length n v hn
  · rw [coolixFrame_of_ne same]
    exact rules.swingLength

end

/-- Settles O34, by the two cases of the toggle; the normal frame is the lookup-table step and then the checksum step. -/
theorem generateCoolix : Obligations.GenerateCoolix := by
  rintro cmd s ps fa rfl bound b p n ctrl
  have rules := theConfig_wellFormed.coolix
  have hn : n.ValidFor b := normalise_validFor _ rules.desc.base cmd
  refine ⟨_, coolixFrame theConfig n _, rfl, accepted_generate (buildCoolix theConfig) cmd s _ bound,
    coolixFrame_length rules hn, coolixFrame_closed rules hn _, ?_⟩
  split
  next differs => exact coolixFrame_of_ne differs
  next same =>
    exact ⟨_, coolixFrame_of_eq (not_not.1 same),
      putTemp_spec _ _ _ rules.table rules.desc.base n hn ctrl (rules.ctrl.length n _ hn)⟩

section
variable {cmd : ClimateCommand} {s : State} {ps : ProtocolState} (bound : s.facade = some ⟨.coolix, ps⟩)
include bound

theorem coolix_emits_swingFrame (differs : wantSwing (normalise theConfig.coolix.base cmd) ≠ ps.assumedSwingOn) :
    (generate theConfig (buildCoolix theConfig) cmd s).pq =
      ser theConfig.coolix.base.timing (planSingle theConfig.coolix.base (.bytes theConfig.coolix.swingFrame)) := by
  rw [← coolixFrame_of_ne (v := Facade.view ⟨.coolix, ps⟩) differs]
  exact (accepted_generate (buildCoolix theConfig) cmd s _ bound).pq

theorem coolix_emits_normal (same : wantSwing (normalise theConfig.coolix.base cmd) = ps.assumedSwingOn) :
    (generate theConfig (buildCoolix theConfig) cmd s).pq =
      ser theConfig.coolix.base.timing (planSingle theConfig.coolix.base (.bytes
        (coolixNormal theConfig (normalise theConfig.coolix.base cmd) (Facade.view ⟨.coolix, ps⟩)))) := by
  rw [← coolixFrame_of_eq same]
  exact (accepted_generate (buildCoolix theConfig) cmd s _ bound).pq

end

/-- Settles O48: each command is decided on the swing that the one before it recorded. -/
theorem coolixSwingSequence : Obligations.CoolixSwingSequence := by
  intro s cmd off bound isVertical isOff b
  have rules := theConfig_wellFormed.coolix
  have wanted : wantSwing (normalise b cmd) = true := wantSwing_normalise rules.vertical isVertical
  have unwanted : wantSwing (normalise b off) = false := wantSwing_normalise rules.desc.base.swingOff isOff
  obtain ⟨p1, bound1, assumed1, -⟩ := generate_records theConfig (buildCoolix theConfig) cmd bound
  obtain ⟨p2, bound2, assumed2, -⟩ := generate_records theConfig (buildCoolix theConfig) cmd bound1
  obtain ⟨p3, bound3, assumed3, -⟩ := generate_records theConfig (buildCoolix theConfig) off bound2
  have on1 : p1.assumedSwingOn = true := assumed1.trans wanted
  have on2 : p2.assumedSwingOn = true := assumed2.trans wanted
  exact ⟨_, _, _, _, p1, p2, p3, exec_generate .coolix cmd s, exec_generate .coolix cmd _, exec_generate .coolix off _,
    coolix_emits_swingFrame bound (wanted.trans_ne (by decide)), bound1, on1,
    coolix_emits_normal bound1 (wanted.trans on1.symm), bound2, on2,
    coolix_emits_swingFrame bound2 (unwanted.trans_ne (by rw [on2]; decide)), bound3, assumed3.trans unwanted,
    exec_generate .coolix off s, view_fresh .coolix ▸ coolix_emits_normal bound unwanted⟩

/-! ### Whirlpool (R360 to R363) -/

/-- Whirlpool's frame before the checksum step: the power field is written when the wanted power differs from the assumed one
(R360). -/
def whirlpoolUnsummed (c : Configuration) (n : NormCmd) (v : PsView) : List Byte :=
  if poweredOn n = v.assumedPowerOn then c.whirlpool.ctrl n v
  else putField (c.whirlpool.ctrl n v) c.whirlpool.power c.whirlpool.powerValue

theorem whirlpoolFrame_eq (c : Configuration) (n : NormCmd) (v : PsView) :
    whirlpoolFrame c n v = finish c.whirlpool.base (whirlpoolUnsummed c n v) := rfl

/-- But for the power field the frame is the control function's (R360). -/
theorem agreesOutside_whirlpoolUnsummed (c : Configuration) (n : NormCmd) (v : PsView) :
    agreesOutside [(c.whirlpool.power.byte, c.whirlpool.power.mask <<< c.whirlpool.power.shift)] (c.whirlpool.ctrl n v)
      (whirlpoolUnsummed c n v) := by
  unfold whirlpoolUnsummed
  split
  · exact agreesOutside_refl ..
  · exact agreesOutside_putField ..

section
variable {c : Configuration} (rules : c.whirlpool.Rules) {n : NormCmd} (hn : n.ValidFor c.whirlpool.base) (v : PsView)
include rules hn

theorem whirlpoolUnsummed_length : (whirlpoolUnsummed c n v).length = c.whirlpool.base.frameLen 0 :=
  (agreesOutside_whirlpoolUnsummed c n v).1.trans (rules.ctrl.length n v hn)

/-- The power field: the set value exactly when the wanted power differs, else the 0 of the control function (R259 c, R360). -/
theorem fieldBits_whirlpoolUnsummed : fieldBits c.whirlpool.power (whirlpoolUnsummed c n v) =
    if poweredOn n ≠ v.assumedPowerOn then c.whirlpool.powerValue <<< c.whirlpool.power.shift else 0 := by
  by_cases same : poweredOn n = v.assumedPowerOn
  · rw [whirlpoolUnsummed, if_pos same, if_neg (not_not.2 same)]
    exact rules.ctrl.zero n v hn _ (List.mem_append_left _ (List.mem_singleton.2 rfl))
  · rw [whirlpoolUnsummed, if_neg same, if_pos same,
      fieldBits_putField _ _ _ (rules.byte.trans_eq (rules.ctrl.length n v hn).symm), rules.value.2]

/-- In the emitted frame the power field is the same when it is clear of the checksum (R260). -/
theorem fieldBits_whirlpoolFrame (clear : clearOfChecksum c.whirlpool.base (c.whirlpool.base.frameLen 0) c.whirlpool.power) :
    fieldBits c.whirlpool.power (whirlpoolFrame c n v) = fieldBits c.whirlpool.power (whirlpoolUnsummed c n v) :=
  fieldBits_finish _ rules.desc.base _ _ ((whirlpoolUnsummed_length rules hn v).symm ▸ clear)

end

/-- Settles O35: what the frame holds before the checksum step, which comes last. -/
theorem generateWhirlpool : Obligations.GenerateWhirlpool := by
  rintro cmd s ps fa rfl bound b p n
  have rules := theConfig_wellFormed.whirlpool
  have hn : n.ValidFor b := normalise_validFor _ rules.desc.base cmd
  obtain ⟨frameLength, isClosed⟩ := finish_length_closed rules.desc
    (whirlpoolUnsummed_length rules hn (Facade.view ⟨.whirlpool, ps⟩))
  exact ⟨_, _, whirlpoolFrame theConfig n _, rfl, accepted_generate (buildWhirlpool theConfig) cmd s _ bound,
    whirlpoolFrame_eq theConfig n _, frameLength, isClosed, agreesOutside_whirlpoolUnsummed theConfig n _,
    fieldBits_whirlpoolUnsummed rules hn _⟩

/-- Settles O49: each command is decided on the power that the one before it recorded. -/
theorem whirlpoolPowerSequence : Obligations.WhirlpoolPowerSequence := by
  intro s cmd off bound isOff b p toggle ctrl
  have rules := theConfig_wellFormed.whirlpool
  have hn : (normalise b cmd).ValidFor b := normalise_validFor _ rules.desc.base cmd
  have hoff : (normalise b off).ValidFor b := normalise_validFor _ rules.desc.base off
  have unpowered : poweredOn (normalise b off) = false := poweredOn_normalise_off rules.desc.base isOff
  have toggleEq : toggle =
      if poweredOn (normalise b cmd) ≠ false then theConfig.whirlpool.powerValue <<< p.shift else 0 := by
    simp only [toggle, poweredOn_ne_false, ite_not]
  have first : fieldBits p (whirlpoolUnsummed theConfig (normalise b cmd) (freshView 0)) = toggle :=
    (fieldBits_whirlpoolUnsummed rules hn (freshView 0)).trans toggleEq.symm
  have again (v : PsView) (assumed : v.assumedPowerOn = poweredOn (normalise b cmd)) :
      fieldBits p (whirlpoolUnsummed theConfig (normalise b cmd) v) = 0 :=
    (fieldBits_whirlpoolUnsummed rules hn v).trans (if_neg (not_not.2 assumed.symm))
  have offAfter (v : PsView) (assumed : v.assumedPowerOn = poweredOn (normalise b cmd)) :
      fieldBits p (whirlpoolUnsummed theConfig (normalise b off) v) = toggle := by
    rw [fieldBits_whirlpoolUnsummed rules hoff, unpowered, assumed, toggleEq]
    exact if_congr ne_comm rfl rfl
  obtain ⟨p1, bound1, -, assumed1⟩ := generate_records theConfig (buildWhirlpool theConfig) cmd bound
  obtain ⟨p2, bound2, -, assumed2⟩ := generate_records theConfig (buildWhirlpool theConfig) cmd bound1
  exact ⟨_, _, _, p1, p2, _, _, _, whirlpoolFrame theConfig _ _, whirlpoolFrame theConfig _ _, whirlpoolFrame theConfig _ _,
    exec_generate .whirlpool cmd s, exec_generate .whirlpool cmd _, exec_generate .whirlpool off _,
    (accepted_generate _ cmd s _ bound).pq, (accepted_generate _ cmd _ _ bound1).pq, (accepted_generate _ off _ _ bound2).pq,
    bound1, bound2, whirlpoolFrame_eq .., whirlpoolFrame_eq .., whirlpoolFrame_eq ..,
    agreesOutside_whirlpoolUnsummed .., agreesOutside_whirlpoolUnsummed .., agreesOutside_whirlpoolUnsummed ..,
    first, again _ assumed1, offAfter _ assumed2,
    fun clear => ⟨(fieldBits_whirlpoolFrame rules hn _ clear).trans first,
      (fieldBits_whirlpoolFrame rules hn _ clear).trans (again _ assumed1),
      (fieldBits_whirlpoolFrame rules hoff _ clear).trans (offAfter _ assumed2)⟩⟩

/-! ### Toshiba GENERIC (R371) -/

/-- Settles O36. -/
theorem generateToshibaGeneric : Obligations.GenerateToshibaGeneric := by
  rintro cmd s ps fa rfl bound b n
  obtain ⟨desc, -, -, -, contract⟩ := theConfig_wellFormed.toshibaGeneric
  have hn : n.ValidFor b := normalise_validFor _ desc.base cmd
  exact ⟨_, toshibaGenericFrame theConfig n _, rfl, accepted_generate (buildToshibaGeneric theConfig) cmd s _ bound, rfl,
    finish_length_closed desc (contract.length n _ hn)⟩

/-! ### Toshiba RAS_2819T (R372, R373, R397) -/

section
variable {c : Configuration} {n : NormCmd} {v : PsView}

theorem ras2819tFrames_of_ne (differs : wantSwing n ≠ v.assumedSwingOn) : ras2819tFrames c n v = c.ras2819t.swingToggle :=
  if_neg differs

theorem ras2819tFrames_of_eq (same : wantSwing n = v.assumedSwingOn) : ras2819tFrames c n v = ras2819tNormal c n v :=
  if_pos same

/-- The toggle message has one block or two, the packets are two (R372, R373). -/
theorem ras2819tFrames_one_or_two (rules : c.ras2819t.Rules) (n : NormCmd) (v : PsView) :
    (∃ f, ras2819tFrames c n v = [f]) ∨ ∃ f g, ras2819tFrames c n v = [f, g] := by
  by_cases same : wantSwing n = v.assumedSwingOn
  · exact .inr ⟨_, _, ras2819tFrames_of_eq same⟩
  · rw [ras2819tFrames_of_ne same]
    exact rules.toggleCount.imp List.length_eq_one_iff.1 List.length_eq_two.1

theorem ras2819tFrames_length (rules : c.ras2819t.Rules) (hn : n.ValidFor c.ras2819t.base) :
    ∀ f ∈ ras2819tFrames c n v, f.length = c.ras2819t.base.frameLen 0 := by
  by_cases same : wantSwing n = v.assumedSwingOn
  · rw [ras2819tFrames_of_eq same]
    exact List.forall_mem_cons.2 ⟨(finish_length _ rules.base _).trans (rules.ctrl0.length n v hn),
      List.forall_mem_singleton.2 ((finish_length _ rules.base _).trans (rules.ctrl1.length n v hn))⟩
  · rw [ras2819tFrames_of_ne same]
    exact rules.toggleLength

end

/-- Settles O37, by the two cases of the toggle; the plan is spelt out for one block and for two. -/
theorem generateToshibaRas2819t : Obligations.GenerateToshibaRas2819t := by
  rintro cmd s ps fa rfl bound b n block gap rep
  have rules := theConfig_wellFormed.ras2819t
  have hn : n.ValidFor b := normalise_validFor _ rules.base cmd
  have accepted : Accepted s _ ⟨.toshibaRas2819t, ps⟩ cmd n (planRepeat b toshibaCopies
      (planBlocks b ((ras2819tFrames theConfig n (Facade.view ⟨.toshibaRas2819t, ps⟩)).map Frame.bytes))) :=
    accepted_generate (buildToshibaRas2819t theConfig) cmd s _ bound
  refine ⟨_, ras2819tFrames theConfig n (Facade.view ⟨.toshibaRas2819t, ps⟩), rfl, ?_,
    fun f hf => ⟨ras2819tFrames_length rules hn f hf, ras2819tFrames_closed rules hn _ f hf⟩, ?_⟩
  · rcases ras2819tFrames_one_or_two rules n (Facade.view ⟨.toshibaRas2819t, ps⟩) with ⟨f, one⟩ | ⟨f, g, two⟩
    · rw [one] at accepted ⊢
      exact accepted
    · rw [two] at accepted ⊢
      exact accepted
  · split
    next differs => exact ras2819tFrames_of_ne differs
    next same => exact ras2819tFrames_of_eq (not_not.1 same)

/-! ### Toshiba RAC_PT1411HWRU (R374) -/

/-- Settles O38: a main block of the lookup-table step, and a swing block that the assumed swing does not reach. -/
theorem generateToshibaRacPt1411hwru : Obligations.GenerateToshibaRacPt1411hwru := by
  rintro cmd s ps fa rfl bound b p n ctrl
  have rules := theConfig_wellFormed.racPt
  have hn : n.ValidFor b := normalise_validFor _ rules.base cmd
  have inFrames : ∀ k < racPtBlocks, k < b.nFrames := fun _ hk => hk.trans_eq rules.two.symm
  obtain ⟨mainLength, mainClosed⟩ := finish_length_closed_of_contract rules.base (inFrames 0 (by decide)) rules.main hn
    (Facade.view ⟨.toshibaRacPt1411hwru, ps⟩) (putTemp_length theConfig.racPt.table b n ctrl)
  obtain ⟨swingLength, swingClosed⟩ := finish_length_closed_of_contract rules.base (inFrames 1 (by decide)) rules.swing hn
    (Facade.view ⟨.toshibaRacPt1411hwru, ps⟩) rfl
  exact ⟨_, putTemp b theConfig.racPt.table n ctrl, racPtMain theConfig n _, racPtSwing theConfig n _, rfl,
    accepted_generate (buildToshibaRacPt1411hwru theConfig) cmd s _ bound, rfl, rfl,
    fun assumed => congrArg (finish b) (rules.absolute n _ assumed hn).symm,
    mainLength, swingLength, mainClosed, swingClosed,
    putTemp_spec _ _ _ rules.table rules.base n hn ctrl (rules.main.length n _ hn)⟩

/-! ### Daikin (R380) -/

/-- Settles O39. -/
theorem generateDaikin : Obligations.GenerateDaikin := by
  rintro cmd s ps fa rfl bound b n block gap
  have rules := theConfig_wellFormed.daikin
  have hn : n.ValidFor b := normalise_validFor _ rules.base cmd
  have inFrames : ∀ k < daikinBlockCount, k < b.nFrames := fun _ hk => hk.trans_eq rules.three.symm
  obtain ⟨length0, closed0⟩ := finish_length_closed_of_contract rules.base (inFrames 0 (by decide)) rules.block0 hn
    (Facade.view ⟨.daikin, ps⟩) rfl
  obtain ⟨length1, closed1⟩ := finish_length_closed_of_contract rules.base (inFrames 1 (by decide)) rules.block1 hn
    (Facade.view ⟨.daikin, ps⟩) rfl
  obtain ⟨length2, closed2⟩ := finish_length_closed_of_contract rules.base (inFrames 2 (by decide)) rules.block2 hn
    (Facade.view ⟨.daikin, ps⟩) rfl
  exact ⟨_, _, _, _, rfl, accepted_generate (buildDaikin theConfig) cmd s _ bound, rfl, rfl, rfl, length0, length1, length2,
    closed0, closed1, closed2⟩

/-! ### Hitachi (R390, R391) -/

/-- A byte of which every listed position is 0 is not covered. -/
theorem maskAt_eq_zero {ps : List (Nat × Byte)} {i : Nat} (clear : ∀ p ∈ ps, p.1 = i → p.2 = 0) : maskAt ps i = 0 := by
  rw [← BitVec.and_allOnes (x := maskAt ps i)]
  exact and_maskAt_of_forall _ ps i fun p hp hi => by rw [clear p hp hi]; rfl

/-- A byte that is listed whole is covered whole. -/
theorem maskAt_eq_allOnes {ps : List (Nat × Byte)} {i : Nat} (whole : (i, 0xFF) ∈ ps) : maskAt ps i = 0xFF := by
  induction ps with
  | nil => exact absurd whole List.not_mem_nil
  | cons p ps ih =>
    rw [maskAt_cons]
    rcases List.mem_cons.1 whole with rfl | later
    · rw [if_pos rfl]
      exact BitVec.allOnes_or
    · rw [ih later]
      exact BitVec.or_allOnes

theorem agreesOutside_append_comm {ps qs : List (Nat × Byte)} {f g : List Byte} (h : agreesOutside (ps ++ qs) f g) :
    agreesOutside (qs ++ ps) f g :=
  ⟨h.1, fun i => by rw [maskAt_append, BitVec.or_comm, ← maskAt_append]; exact h.2 i⟩

/-- The inversion writes the odd bytes from its first on and nothing else (R228). -/
theorem agreesOutside_invertPairs (f : List Byte) (first : Nat) :
    agreesOutside (((List.range f.length).filter fun i => i % 2 = 1 ∧ first ≤ i).map fun i => (i, 0xFF)) f
      (invertPairs f first) := by
  refine ⟨invertPairs_length f first, fun i => ?_⟩
  by_cases inside : i < f.length
  · rw [invertPairs_getD f first i inside]
    split
    next written =>
      rw [maskAt_eq_allOnes]
      · exact BitVec.and_zero.trans BitVec.and_zero.symm
      · exact List.mem_map.2 ⟨i, List.mem_filter.2 ⟨List.mem_range.2 inside, decide_eq_true written⟩, rfl⟩
    next => rfl
  · rw [List.getD_eq_default _ _ (by rw [invertPairs_length]; omega), List.getD_eq_default _ _ (by omega)]

section
variable {c : Configuration} (rules : c.hitachi.HitachiRules) {n : NormCmd} (hn : n.ValidFor c.hitachi.base) (v : PsView)
include rules hn

/-- The bytes of a pair hold no checksum, so the checksum step leaves them (R391). -/
theorem hitachiFrame_getD {i j : Nat} (odd : i % 2 = 1) (first : 3 ≤ i) (inside : i < c.hitachi.base.frameLen 0)
    (inPair : j = i ∨ j + 1 = i) :
    (hitachiFrame c n v).getD j 0 = (invertPairs (c.hitachi.ctrl n v) 3).getD j 0 := by
  have length : (invertPairs (c.hitachi.ctrl n v) 3).length = c.hitachi.base.frameLen 0 :=
    (invertPairs_length ..).trans (rules.ctrl.length n v hn)
  have kept := (agreesOutside_finish _ rules.desc.base (invertPairs (c.hitachi.ctrl n v) 3)).2 j
  have uncovered : maskAt (checksumBits c.hitachi.base (c.hitachi.base.frameLen 0)) j = 0 := by
    refine maskAt_eq_zero fun q hq place => by_contra fun nonzero => ?_
    obtain ⟨notOdd, notEven⟩ := rules.clear q hq nonzero i odd first inside
    omega
  rw [length, uncovered] at kept
  exact BitVec.and_allOnes.symm.trans (kept.trans BitVec.and_allOnes)

/-- Every odd byte from index 3 on complements its predecessor, which the inversion leaves (R228, R390). -/
theorem hitachiFrame_pair {i : Nat} (odd : i % 2 = 1) (first : 3 ≤ i) (inside : i < c.hitachi.base.frameLen 0) :
    (hitachiFrame c n v).getD i 0 = (hitachiFrame c n v).getD (i - 1) 0 ^^^ 0xFF := by
  have ctrlLength := rules.ctrl.length n v hn
  rw [hitachiFrame_getD rules hn v odd first inside (.inl rfl),
    hitachiFrame_getD rules hn v odd first inside (.inr (by omega)),
    invertPairs_getD _ _ _ (by omega), invertPairs_getD _ _ _ (by omega), if_pos ⟨odd, first⟩, if_neg (by omega), inv8]

end

/-- Settles O40: the inversion writes the pairs, and the checksum step, which comes last, its own positions. -/
theorem generateHitachi : Obligations.GenerateHitachi := by
  rintro cmd s ps fa rfl bound b n ctrl
  have rules := theConfig_wellFormed.hitachi
  have hn : n.ValidFor b := normalise_validFor _ rules.desc.base cmd
  have ctrlLength : ctrl.length = b.frameLen 0 := rules.ctrl.length n _ hn
  have pairsLength : (invertPairs ctrl 3).length = b.frameLen 0 := (invertPairs_length ..).trans ctrlLength
  obtain ⟨frameLength, isClosed⟩ := finish_length_closed rules.desc pairsLength
  have written := agreesOutside_trans (agreesOutside_invertPairs ctrl 3)
    (agreesOutside_finish b rules.desc.base (invertPairs ctrl 3))
  rw [pairsLength, ctrlLength, ← frameLength] at written
  exact ⟨_, hitachiFrame theConfig n _, rfl, accepted_generate (buildHitachi theConfig) cmd s _ bound, frameLength, isClosed,
    fun i odd first inside => hitachiFrame_pair rules hn _ odd first (inside.trans_eq frameLength),
    agreesOutside_append_comm written⟩

end Sys2Proof.Machine

/-! Completion of GENERATE (spec/60_exceptions.md R435): under a binding it answers OK with the length of a non-empty
sequence of positive durations, no longer than PS_MAX (spec/41_pulse_primitives.md R203). -/

namespace Sys2Proof.Machine

/-! ### PS_MAX (R203) -/

theorem durationsPerCopy_eq : durationsPerCopy = 2076 := rfl

theorem psMax_eq (c : Configuration) : psMax c = copiesMax c * 2076 := by
  rw [psMax, durationsPerCopy_eq]

/-- A registered brand's copies fit in PS_MAX, at 2076 durations a copy (R203). -/
theorem copies_mul_le_psMax {c : Configuration} {tgt : Target} (registered : c.registered tgt.brand = true) :
    (c.desc tgt).plan.copies * 2076 ≤ psMax c := by
  rw [psMax_eq]
  exact Nat.mul_le_mul_right 2076 ((copiesMax_spec c).1 tgt registered)

/-- PS_MAX is no larger than a registered brand makes it (R203). -/
theorem psMax_attained (c : Configuration) :
    psMax c = 0 ∨ ∃ tgt : Target, c.registered tgt.brand = true ∧ psMax c = (c.desc tgt).plan.copies * 2076 := by
  rcases (copiesMax_spec c).2 with zero | ⟨tgt, registered, largest⟩
  · exact .inl (by rw [psMax_eq, zero, Nat.zero_mul])
  · exact .inr ⟨tgt, registered, by rw [psMax_eq, largest]⟩

/-! ### What a GENERATE under a binding leaves on the ports (R109, R155, R201, R203) -/

section
variable {c : Configuration} (b : Builder) (cmd : ClimateCommand) {s : State} {fa : Facade} (bound : s.facade = some fa)
include bound

theorem generate_pq : (generate c b cmd s).pq =
    ser (c.desc fa.target).timing (b (normalise (c.desc fa.target) cmd) fa.view).plan := by
  rw [generate_bound c b cmd s fa bound]

theorem generate_rsp :
    (generate c b cmd s).rsp = some ⟨.ok, BitVec.ofNat 32 (generate c b cmd s).pq.length⟩ := by
  rw [generate_bound c b cmd s fa bound]

end

/-- What the builder of the binding emits is not empty, holds no 0 and has at most 2076 durations a copy: its plan is in
order on every normalised command (R201, R203). -/
theorem generate_pq_ok {c : Configuration} (hc : c.WellFormed) (cmd : ClimateCommand) {s : State} {fa : Facade}
    (bound : s.facade = some fa) :
    let pq := (generate c (builderOf c fa.target) cmd s).pq
    pq ≠ [] ∧ (∀ d ∈ pq, d ≠ 0) ∧ pq.length ≤ (c.desc fa.target).plan.copies * 2076 := by
  have hd := desc_wellFormed c hc fa.target
  have plan := builderOf_planOk c hc fa.target _ fa.view (normalise_validFor _ hd cmd) rfl
  obtain ⟨nonempty, positive, length_le, -⟩ := plan.ser _ hd.timing
  rw [generate_pq _ cmd bound]
  exact ⟨nonempty, positive, length_le⟩

/-- Settles O42: the row of GENERATE that the binding chooses runs its builder, whose plan is in order, and PS_MAX is the
bound of the registered brand with the most copies. -/
theorem boundGenerateEmits : Obligations.BoundGenerateEmits := by
  refine ⟨fun cmd s fa bound => ?_, fun c cmd s fa hc registered bound => ?_,
    fun c => ⟨fun _ => copies_mul_le_psMax, psMax_attained c⟩⟩
  · exact ⟨_, exec_generate fa.target cmd s, generate_rsp _ cmd bound, generate_pq_ok theConfig_wellFormed cmd bound⟩
  · obtain ⟨-, -, length_le⟩ := generate_pq_ok hc cmd bound
    exact length_le.trans (copies_mul_le_psMax registered)

end Sys2Proof.Machine

/-! Reset and termination (spec/70_reset_and_hazards.md): what `rst` does, and that no sequence of steps stops. -/

namespace Sys2Proof.Machine

/-! ### Reset (R36, R451) -/

/-- `rst` wins over whatever else the sample drives, in any state (R451; log 8). -/
theorem step_rst {s : State} {p : PortInput} {rest : List PortInput} (inputs : s.inputs = p :: rest)
    (rst : p.rst = true) : step s = .next { State.reset with inputs := rest } := by
  rw [step_cons inputs, serve, if_pos rst, State.resetPort_eq]

/-- Settles O7. -/
theorem resetPinLeavesTheResetState : Obligations.ResetPinLeavesTheResetState :=
  fun _ _ _ inputs rst => ⟨_, step_rst inputs rst, rfl, rfl, rfl, rfl⟩

/-! ### Every sequence of steps has a result (R469) -/

/-- Settles O10, by induction on the number of steps: each answers a next state, from which the rest of the run goes on. -/
theorem everySequenceHasAResult : Obligations.EverySequenceHasAResult := by
  intro n
  induction n with
  | zero => exact fun s => ⟨s, rfl⟩
  | succ n ih =>
    intro s
    obtain ⟨u, stepped⟩ := step_next s
    obtain ⟨t, ran⟩ := ih u
    exact ⟨t, (run_succ n s u stepped).trans ran⟩

end Sys2Proof.Machine
